-- ==== Sys2Proof/Word.lean ====
section
/-! DEFINITION. The machine's words: bytes, 16-bit words, 24-bit addresses, and the two operand widths. -/

namespace Sys2Proof

/-- A byte of memory, and every 8-bit register (00_scope.md R6, R7). -/
abbrev Byte := BitVec 8

/-- A 16-bit word: A, X, Y, S, D, PC and every bank offset (00_scope.md R6). -/
abbrev Word := BitVec 16

/-- A 24-bit address, bank byte over 16-bit offset (00_scope.md R8). -/
abbrev Addr := BitVec 24

/-- The width an operand is used at: 8 or 16 bits (10_state.md R32). -/
inductive Width where
  | w8
  | w16
deriving DecidableEq, Repr

end Sys2Proof
end

