-- ==== Sys2Proof/Machine/Bits.lean ====
section
/-! DEFINITION. Bytes of words and addresses, and the widening of bytes: the notation of 00_scope.md R7 and R8. -/

namespace Sys2Proof

/-- v[7:0] (R7). -/
def loByte (v : Word) : Byte := v.extractLsb' 0 8

/-- v[15:8] (R7). -/
def hiByte (v : Word) : Byte := v.extractLsb' 8 8

/-- hi ++ lo, with hi in the high bits (R7). -/
def mkWord (hi lo : Byte) : Word := hi ++ lo

/-- zext_16 (R7). -/
def zextWord (v : Byte) : Word := v.setWidth 16

/-- sext_16 (R7). -/
def sextWord (v : Byte) : Word := v.signExtend 16

/-- The 24-bit address bank:offset (R8). -/
def mkAddr (bank : Byte) (offset : Word) : Addr := bank ++ offset

/-- hi ++ mid ++ lo, a 24-bit value from three little-endian bytes (R7, 20_memory.md R74). -/
def mkLong (hi mid lo : Byte) : Addr := mkAddr hi (mkWord mid lo)

/-- The bank byte of an address, address[23:16] (20_memory.md R52). -/
def Addr.bank (a : Addr) : Byte := a.extractLsb' 16 8

/-- The bank-local offset of an address, address[15:0] (20_memory.md R52). -/
def Addr.offset (a : Addr) : Word := a.extractLsb' 0 16

/-- zext_24 of an index (R7). -/
def zextAddr (v : Word) : Addr := v.setWidth 24

namespace Width

/-- The number of bits of a width (10_state.md R32). -/
def bits : Width → Nat
  | .w8 => 8
  | .w16 => 16

/-- 2^w - 1 (maskM and maskX of 10_state.md R32). -/
def mask : Width → Word
  | .w8 => 0x00FF
  | .w16 => 0xFFFF

/-- 2^(w-1) (signM and signX of 10_state.md R32). -/
def sign : Width → Word
  | .w8 => 0x0080
  | .w16 => 0x8000

/-- v mod 2^w, kept in 16 bits. -/
def trunc : Width → Word → Word
  | .w8, v => zextWord (loByte v)
  | .w16, v => v

/-- v written over old at a width, the bits above the width kept (10_state.md R33). -/
def merge : Width → Word → Word → Word
  | .w8, old, v => mkWord (hiByte old) (loByte v)
  | .w16, _, v => v

/-- bit w-1 of v. -/
def msb (w : Width) (v : Word) : Bool := v.getLsbD (w.bits - 1)

end Width

end Sys2Proof
end

