-- ==== Sys2Proof/Machine/BusState.lean ====
section
/-! DEFINITION. What the bus owns, as plain data: the three byte arrays, the ROM length, the mapping scheme, the
I/O handler table, the two request lines, and the record of callback invocations (10_state.md R40, 20_memory.md R50, R66). -/

namespace Sys2Proof.Machine

/-- A byte array kept sparsely: (index, byte) pairs in rising order of index, none of them 0x00, which is what an
unlisted index reads as. Memory.wf of Machine/Memory.lean is the form; log entry 7 says where the 0x00 comes from. -/
abbrev Memory := List Host.Cell

/-- The two ROM mapping schemes, SchemeA (LoROM) and SchemeB (HiROM): 20_memory.md R52, R57, R58. -/
inductive Scheme where
  | schemeA
  | schemeB
deriving DecidableEq, Repr, Inhabited

/-- One entry of the I/O handler table: which of its two callbacks are present (20_memory.md R68). What a callback
answers is the host's (R66): Config.callback. -/
structure Handler where
  onRead : Bool
  onWrite : Bool
deriving DecidableEq, Repr, Inhabited

/-- One invocation of a callback: its offset in the I/O window and, for a write, the value (20_memory.md R66). -/
inductive IoEvent where
  | read (offset : Nat)
  | write (offset : Nat) (value : Byte)
deriving DecidableEq, Repr, Inhabited

/-- What the host may do to the block, between steps or from inside a callback: change a byte of work RAM or save RAM
(20_memory.md R66, R73), request an NMI, drive the IRQ line (60_exceptions.md R406, R407, R409), register a handler (R68),
have a callback invoked by a bus access of its own (R66), change its own state. Log entries 2, 15 and 17. -/
inductive HostAction where
  | pokeWram (index : Nat) (value : Byte)
  | pokeSram (index : Nat) (value : Byte)
  | raiseNmi
  | setIrq (level : Bool)
  | register (offset : Word) (onRead onWrite : Bool)
  | nested (event : IoEvent)
  | setHost (tag : Nat)
deriving DecidableEq, Repr, Inhabited

/-- What one invocation of a callback comes to: the byte a read callback returns, and what it does before it returns
(20_memory.md R66). -/
structure CallbackAnswer where
  byte : Byte
  actions : List HostAction
deriving DecidableEq, Repr, Inhabited

/-- The bus and what is wired to it. The first six fields are 10_state.md R40. The request lines are CPU state in R20;
they stand here because, but for the NMI entry's clearing of one, only the host writes them, also from inside a callback
(60_exceptions.md R409). The last two are the model's own (log entry 3): events is the record R66 asks for, oldest first,
and host stands for the host's state outside the core. -/
structure Bus where
  wram : Memory
  sram : Memory
  rom : Memory
  romLen : Nat
  scheme : Scheme
  handlers : List (Nat × Handler)
  nmiPending : Bool
  irqPending : Bool
  events : List IoEvent
  host : Nat
deriving DecidableEq, Repr, Inhabited

end Sys2Proof.Machine
end

