-- ==== Sys2Proof/Config.lean ====
section
/-! DEFINITION. What the spec leaves to the implementation or to the host: the OPEN parameter and the host's callbacks.
Neither has a body, so nothing can be proved of its value. -/

namespace Sys2Proof

/-- RESET_FALLBACK_PC, the OPEN parameter of 00_scope.md R6 (92_eei_decisions.md D9): the PC that reset takes where the
reset vector reads 0x0000 or 0xFFFF. Log entry 4. -/
opaque Config.resetFallbackPc : Word

/-- The free answer of the host's callback to an event, a draw under no law (20_memory.md R66, D34): it may depend on
everything the bus holds (the event itself is already the last of its record) and on the host's own state. Log entry 1. -/
opaque Config.callback (bus : Machine.Bus) (event : Machine.IoEvent) : Machine.CallbackAnswer

end Sys2Proof
end

