-- ==== Sys2Proof/Machine/State.lean ====
section
/-! DEFINITION. The state of the machine as plain data, the reasons a step can stop, and the state after reset. -/

namespace Sys2Proof.Machine

/-- The ways a step can stop with a fault: none. "the hardware has no synchronous exception, fault or trap outcome for
any instruction or any address" (00_scope.md R11, 60_exceptions.md R400, 40_dispatch.md R128), so the type is empty, and
that no step faults holds by its form. Log entry 14. -/
inductive Fault where
deriving DecidableEq, Repr

/-- The ways an instruction can be turned away. -/
inductive Refusal where
  /-- Raised by an arm of exec whose instruction has no meaning in the model; safe. No arm raises it. -/
  | notModelled (mnemonic : String)
deriving DecidableEq, Repr

/-- The state of the machine: the CPU record of 10_state.md R20 under its own names (S is `sp`; the two request lines
are in `bus`), and the bus. -/
structure State where
  /-- A, the accumulator (R21) -/
  a : Word
  /-- X, index register (R22) -/
  x : Word
  /-- Y, index register (R22) -/
  y : Word
  /-- S, the stack pointer (R23) -/
  sp : Word
  /-- D, the direct page base (R24) -/
  d : Word
  /-- PC, the program counter, an offset in bank PBR (R25) -/
  pc : Word
  /-- PBR, the program bank (R26) -/
  pbr : Byte
  /-- DBR, the data bank (R26) -/
  dbr : Byte
  /-- P, the status word: C Z I D X M V N from bit 0 to bit 7 (R27) -/
  p : Byte
  /-- E, emulation mode (R28) -/
  e : Bool
  /-- elapsed cycles since reset, unbounded (R37) -/
  cycles : Nat
  /-- set by WAI (R39) -/
  waiting : Bool
  /-- set by STP (R39) -/
  stopped : Bool
  /-- the bus (R40) with the request lines (R38) -/
  bus : Bus
deriving DecidableEq, Repr

/-- The bus before any cartridge is loaded: both RAMs zero (70_reset_and_hazards.md R452), an empty image under SchemeA
(20_memory.md R71, R72), no handler, no request. Log entries 3, 5 and 7. -/
def Bus.construction : Bus where
  wram := []
  sram := []
  rom := []
  romLen := 0
  scheme := .schemeA
  handlers := []
  nmiPending := false
  irqPending := false
  events := []
  host := 0

/-- The machine right after reset with nothing loaded: the values of 10_state.md R41 and 70_reset_and_hazards.md R450.
The vector of an empty image reads 0xFFFF, so PC is RESET_FALLBACK_PC (95_test_vectors.md V-R3). -/
def State.reset : State where
  a := 0x0000
  x := 0x0000
  y := 0x0000
  sp := 0x01FF
  d := 0x0000
  pc := Config.resetFallbackPc
  pbr := 0x00
  dbr := 0x00
  p := 0x34
  e := true
  cycles := 0
  waiting := false
  stopped := false
  bus := Bus.construction

end Sys2Proof.Machine
end

