-- ==== Sys2Proof/Machine/Memory.lean ====
section
/-! DEFINITION. The byte arrays and the handler table as canonical lists: reading, writing and the form. -/

namespace Sys2Proof.Machine

/-- The byte at an index; an unlisted index reads 0x00 (20_memory.md R50, 70_reset_and_hazards.md R452; log entry 7). -/
def Memory.read : Memory → Nat → Byte
  | [], _ => 0x00
  | (k, u) :: m, i => if i = k then u else if i < k then 0x00 else Memory.read m i

/-- Write a byte, keeping the canonical form: 0x00 removes the entry. -/
def Memory.write : Memory → Nat → Byte → Memory
  | [], i, v => if v = 0x00 then [] else [(i, v)]
  | (k, u) :: m, i, v =>
    if i < k then (if v = 0x00 then (k, u) :: m else (i, v) :: (k, u) :: m)
    else if i = k then (if v = 0x00 then m else (k, v) :: m)
    else (k, u) :: Memory.write m i v

/-- Indexes rise strictly from at least lo, and no byte is 0x00. -/
def Memory.risesFrom : Nat → Memory → Bool
  | _, [] => true
  | lo, (k, v) :: m => decide (lo ≤ k) && decide (v ≠ 0x00) && Memory.risesFrom (k + 1) m

/-- The canonical form of an array. -/
def Memory.wf (m : Memory) : Bool := Memory.risesFrom 0 m

/-- Every listed index lies below size. -/
def Memory.below (m : Memory) (size : Nat) : Bool := m.all fun c => decide (c.1 < size)

/-- The array that holds the bytes given from index i on. -/
def Memory.ofBytes : Nat → List Byte → Memory
  | _, [] => []
  | i, v :: vs => if v = 0x00 then Memory.ofBytes (i + 1) vs else (i, v) :: Memory.ofBytes (i + 1) vs

/-- The handler table as pairs in rising order of offset (20_memory.md R68). -/
abbrev Handlers := List (Nat × Handler)

/-- The entry for an offset, if there is one. -/
def Handlers.find : Handlers → Nat → Option Handler
  | [], _ => none
  | (k, h) :: t, i => if i = k then some h else if i < k then none else Handlers.find t i

/-- Store an entry, replacing one of the same offset as a whole: "last registration for a given address wins" (R68). -/
def Handlers.insert : Handlers → Nat → Handler → Handlers
  | [], i, h => [(i, h)]
  | (k, g) :: t, i, h =>
    if i < k then (i, h) :: (k, g) :: t
    else if i = k then (k, h) :: t
    else (k, g) :: Handlers.insert t i h

/-- Offsets rise strictly from at least lo. -/
def Handlers.risesFrom : Nat → Handlers → Bool
  | _, [] => true
  | lo, (k, _) :: t => decide (lo ≤ k) && Handlers.risesFrom (k + 1) t

/-- The canonical form of the handler table. -/
def Handlers.wf (t : Handlers) : Bool := Handlers.risesFrom 0 t

end Sys2Proof.Machine
end

