-- ==== Sys2Proof/Machine/Bus.lean ====
section
/-! DEFINITION. The bus: address decoding under the two schemes, byte reads and writes, the I/O window and its
callbacks, and the multi-byte accesses built from byte accesses (20_memory.md). -/

namespace Sys2Proof.Machine

/-- WRAM_SIZE (00_scope.md R6). -/
def wramSize : Nat := 131072

/-- SRAM_SIZE (00_scope.md R6). -/
def sramSize : Nat := 131072

/-- OPEN_BUS, the sentinel of an access with nothing behind it (00_scope.md R6, 20_memory.md R64). -/
def openBusByte : Byte := 0xFF

/-- RDNMI_VERSION with the value the spec decides (00_scope.md R6, 92_eei_decisions.md D20; log entry 6). -/
def rdnmiVersion : Byte := 0x02

/-- The regions an address decodes to (20_memory.md R52). -/
inductive Region where
  | wram
  | sram
  | rom
  | io
  | openBus
deriving DecidableEq, Repr

/-- The SchemeA (LoROM) layout of what R53 to R55 did not decode: 20_memory.md R57. -/
def mapSchemeA (b a : Nat) : Region × Nat :=
  if 0x8000 ≤ a then (.rom, b * 0x8000 + (a - 0x8000))
  else if b < 0x40 then (.openBus, 0)
  else if b < 0x70 then (.rom, b * 0x8000 + a)
  else (.sram, (b - 0x70) * 0x8000 + a)

/-- The SchemeB (HiROM) layout of what R53 to R55 did not decode: 20_memory.md R58. -/
def mapSchemeB (b a : Nat) : Region × Nat :=
  if 0x40 ≤ b then (.rom, (b - 0x40) * 0x10000 + a)
  else if 0x8000 ≤ a then (.rom, b * 0x10000 + a)
  else if b < 0x20 then (.openBus, 0)
  else (.sram, (b - 0x20) * 0x2000 + (a - 0x6000))

/-- mapAddress: the region and offset of an address under a scheme (20_memory.md R52 to R58). The bank's high bit is
ignored. -/
def mapAddress (scheme : Scheme) (address : Addr) : Region × Nat :=
  let b := address.bank.toNat % 0x80
  let a := address.offset.toNat
  if 0x7E ≤ b then (.wram, (b - 0x7E) * 0x10000 + a)
  else if b < 0x40 ∧ a < 0x2000 then (.wram, a)
  else if b < 0x40 ∧ a < 0x6000 then (.io, a)
  else match scheme with
    | .schemeA => mapSchemeA b a
    | .schemeB => mapSchemeB b a

/-- What one action of the host does to the bus (20_memory.md R66, R68, R73; 60_exceptions.md R406, R407). -/
def HostAction.apply (b : Bus) : HostAction → Bus
  | .pokeWram index value => { b with wram := b.wram.write (index % wramSize) value }
  | .pokeSram index value => { b with sram := b.sram.write (index % sramSize) value }
  | .raiseNmi => { b with nmiPending := true }
  | .setIrq level => { b with irqPending := level }
  | .register offset onRead onWrite => { b with handlers := Handlers.insert b.handlers offset.toNat ⟨onRead, onWrite⟩ }
  | .nested event => { b with events := b.events ++ [event] }
  | .setHost tag => { b with host := tag }

/-- The host's actions in order. -/
def Bus.applyAll : Bus → List HostAction → Bus
  | b, [] => b
  | b, act :: acts => Bus.applyAll (act.apply b) acts

/-- Invoke a callback: the event is recorded, the answer is the host's, and everything the callback does is done before
the access returns (20_memory.md R66). -/
def Bus.invoke (b : Bus) (event : IoEvent) : Byte × Bus :=
  let b1 := { b with events := b.events ++ [event] }
  let answer := Config.callback b1 event
  (answer.byte, b1.applyAll answer.actions)

/-- Whether a read callback is registered for an offset (20_memory.md R65). -/
def Bus.readsBack (b : Bus) (offset : Nat) : Bool :=
  match Handlers.find b.handlers offset with
  | some h => h.onRead
  | none => false

/-- Whether a write callback is registered for an offset (20_memory.md R69). -/
def Bus.writesBack (b : Bus) (offset : Nat) : Bool :=
  match Handlers.find b.handlers offset with
  | some h => h.onWrite
  | none => false

/-- What an I/O offset with no read callback reads as: the two built-in status registers, else open bus
(20_memory.md R65, R67). -/
def ioDefault (offset : Nat) : Byte :=
  if offset = 0x4210 then rdnmiVersion &&& 0x0F
  else if offset = 0x4212 then 0x00
  else openBusByte

/-- ioRead (20_memory.md R65). -/
def Bus.ioRead (b : Bus) (offset : Nat) : Byte × Bus :=
  if b.readsBack offset then b.invoke (.read offset) else (ioDefault offset, b)

/-- ioWrite (20_memory.md R69). -/
def Bus.ioWrite (b : Bus) (offset : Nat) (value : Byte) : Bus :=
  if b.writesBack offset then (b.invoke (.write offset value)).2 else b

/-- Bus.read (20_memory.md R60). -/
def Bus.read (b : Bus) (address : Addr) : Byte × Bus :=
  match mapAddress b.scheme address with
  | (.wram, off) => (b.wram.read (off % wramSize), b)
  | (.sram, off) => (b.sram.read (off % sramSize), b)
  | (.rom, off) => (if off < b.romLen then b.rom.read off else openBusByte, b)
  | (.io, off) => b.ioRead off
  | (.openBus, _) => (openBusByte, b)

/-- Bus.write (20_memory.md R61). -/
def Bus.write (b : Bus) (address : Addr) (value : Byte) : Bus :=
  match mapAddress b.scheme address with
  | (.wram, off) => { b with wram := b.wram.write (off % wramSize) value }
  | (.sram, off) => { b with sram := b.sram.write (off % sramSize) value }
  | (.rom, _) => b
  | (.io, off) => b.ioWrite off value
  | (.openBus, _) => b

/-- Bus.read16 = MemRead(a, 2): low byte first, the second address being the 24-bit successor (20_memory.md R62). -/
def Bus.read16 (b : Bus) (address : Addr) : Word × Bus :=
  let lo := b.read address
  let hi := lo.2.read (address + 1)
  (mkWord hi.1 lo.1, hi.2)

/-- Bus.write16 = MemWrite(a, 2, v): low byte first (20_memory.md R62). -/
def Bus.write16 (b : Bus) (address : Addr) (value : Word) : Bus :=
  (b.write address (loByte value)).write (address + 1) (hiByte value)

/-- MemRead(ea, w/8), the operand read at a width (00_scope.md R9, 41_addressing.md R148). -/
def Bus.readAt (b : Bus) (w : Width) (address : Addr) : Word × Bus :=
  match w with
  | .w8 => (zextWord (b.read address).1, (b.read address).2)
  | .w16 => b.read16 address

/-- MemWrite(ea, w/8, v), the operand write at a width (00_scope.md R9, 41_addressing.md R148). -/
def Bus.writeAt (b : Bus) (w : Width) (address : Addr) (value : Word) : Bus :=
  match w with
  | .w8 => b.write address (loByte value)
  | .w16 => b.write16 address value

/-- MemReadBank(bank, o, 2): the offset wraps inside the bank (00_scope.md R9). -/
def Bus.readBank2 (b : Bus) (bank : Byte) (o : Word) : Word × Bus :=
  let lo := b.read (mkAddr bank o)
  let hi := lo.2.read (mkAddr bank (o + 1))
  (mkWord hi.1 lo.1, hi.2)

/-- MemReadBank(bank, o, 3): the offset wraps inside the bank (00_scope.md R9). -/
def Bus.readBank3 (b : Bus) (bank : Byte) (o : Word) : Addr × Bus :=
  let lo := b.read (mkAddr bank o)
  let mid := lo.2.read (mkAddr bank (o + 1))
  let hi := mid.2.read (mkAddr bank (o + 2))
  (mkLong hi.1 mid.1 lo.1, hi.2)

end Sys2Proof.Machine
end

