-- ==== Sys2Proof/Machine/Flags.lean ====
section
/-! DEFINITION. The flags of P and every flag computation the spec gives (10_state.md R27, R35; 43_alu.md). A function
here takes the status word before and gives the status word after; what it does not name it leaves as it was. -/

namespace Sys2Proof.Machine

/-- The flags of P (10_state.md R27). -/
inductive Flag where
  | c
  | z
  | i
  | d
  | x
  | m
  | v
  | n
deriving DecidableEq, Repr

/-- The bit position of a flag (10_state.md R27). -/
def Flag.bit : Flag → Nat
  | .c => 0
  | .z => 1
  | .i => 2
  | .d => 3
  | .x => 4
  | .m => 5
  | .v => 6
  | .n => 7

/-- The status word with one flag alone set. -/
def Flag.mask (f : Flag) : Byte := 1 <<< f.bit

/-- The value of a flag. -/
def flag (p : Byte) (f : Flag) : Bool := p.getLsbD f.bit

/-- P with one flag written and the other seven kept. -/
def setFlag (p : Byte) (f : Flag) (value : Bool) : Byte :=
  if value then p ||| f.mask else p &&& ~~~ f.mask

/-- setNZ(v, w): Z from v mod 2^w, N from bit w-1 (10_state.md R35). -/
def setNZ (p : Byte) (w : Width) (v : Word) : Byte :=
  setFlag (setFlag p .z (w.trunc v == 0)) .n (w.msb v)

/-- What an ALU operation gives: the result at the operand's width and the status word after. -/
structure AluResult where
  value : Word
  p : Byte
deriving DecidableEq, Repr

/-- ADC at width w: add(a, m, C, w), then C, V and NZ (43_alu.md R220, R250). D is not looked at (R251). -/
def addWithCarry (w : Width) (p : Byte) (a m : Word) : AluResult :=
  let r := a.toNat + m.toNat + (flag p .c).toNat
  let res := BitVec.ofNat 16 (r % 2 ^ w.bits)
  let ovf := ((a ^^^ res) &&& (m ^^^ res) &&& w.sign) != 0
  ⟨res, setNZ (setFlag (setFlag p .c (decide (2 ^ w.bits - 1 < r))) .v ovf) w res⟩

/-- SBC at width w: the addition with the operand inverted (43_alu.md R221, D12). -/
def subWithBorrow (w : Width) (p : Byte) (a m : Word) : AluResult :=
  addWithCarry w p a (m ^^^ w.mask)

/-- cmp(r, m, w): C from r >= m unsigned, NZ from the difference (43_alu.md R252). -/
def compareFlags (w : Width) (p : Byte) (r m : Word) : Byte :=
  setNZ (setFlag p .c (decide (m.toNat ≤ r.toNat))) w (w.trunc (r - m))

/-- BIT: Z from a AND m; N and V from the operand's top two bits unless it is an immediate (43_alu.md R228). -/
def bitTest (w : Width) (p : Byte) (a m : Word) (immediate : Bool) : Byte :=
  let pz := setFlag p .z ((a &&& m) == 0)
  if immediate then pz
  else setFlag (setFlag pz .n (w.msb m)) .v (m.getLsbD (w.bits - 2))

/-- INC (43_alu.md R229). -/
def increment (w : Width) (p : Byte) (v : Word) : AluResult :=
  let res := w.trunc (v + 1)
  ⟨res, setNZ p w res⟩

/-- DEC (43_alu.md R230). -/
def decrement (w : Width) (p : Byte) (v : Word) : AluResult :=
  let res := w.trunc (v - 1)
  ⟨res, setNZ p w res⟩

/-- ASL: C from bit w-1 (43_alu.md R235). -/
def shiftLeft (w : Width) (p : Byte) (v : Word) : AluResult :=
  let res := w.trunc (v <<< 1)
  ⟨res, setNZ (setFlag p .c (w.msb v)) w res⟩

/-- LSR: C from bit 0 (43_alu.md R236). -/
def shiftRight (w : Width) (p : Byte) (v : Word) : AluResult :=
  let res := v >>> 1
  ⟨res, setNZ (setFlag p .c (v.getLsbD 0)) w res⟩

/-- ROL: the old C enters bit 0, C from bit w-1 (43_alu.md R237). -/
def rotateLeft (w : Width) (p : Byte) (v : Word) : AluResult :=
  let res := w.trunc ((v <<< 1) ||| (if flag p .c then 1 else 0))
  ⟨res, setNZ (setFlag p .c (w.msb v)) w res⟩

/-- ROR: the old C enters bit w-1, C from bit 0 (43_alu.md R238). -/
def rotateRight (w : Width) (p : Byte) (v : Word) : AluResult :=
  let res := (v >>> 1) ||| (if flag p .c then w.sign else 0)
  ⟨res, setNZ (setFlag p .c (v.getLsbD 0)) w res⟩

/-- TSB: Z from a AND the old value, the bits of a set (43_alu.md R239). -/
def testAndSet (_w : Width) (a : Word) (p : Byte) (v : Word) : AluResult :=
  ⟨v ||| a, setFlag p .z ((a &&& v) == 0)⟩

/-- TRB: Z from a AND the old value, the bits of a cleared (43_alu.md R240). -/
def testAndReset (w : Width) (a : Word) (p : Byte) (v : Word) : AluResult :=
  ⟨v &&& (a ^^^ w.mask), setFlag p .z ((a &&& v) == 0)⟩

end Sys2Proof.Machine
end

