-- ==== Sys2Proof/Machine/Cycles.lean ====
section
/-! DEFINITION. Cycle accounting: the modifiers of 30_encoding.md R105 and what each adds
(70_reset_and_hazards.md R460 to R469). -/

namespace Sys2Proof.Machine

/-- The cycle modifiers of an opcode's row (30_encoding.md R105). -/
inductive Modifier where
  | m1
  | m2
  | x1
  | dl
  | px
  | br
  | bra
  | e1
  | mv
deriving DecidableEq, Repr

/-- What the charge depends on besides the state the instruction sees: whether its indexed address crosses a page (R466),
whether its branch is taken and whether the target lies in another page than the next instruction (R467). -/
structure CycleFacts where
  crossed : Bool := false
  taken : Bool := false
  otherPage : Bool := false
deriving DecidableEq, Repr

/-- What one modifier adds, on the state the instruction sees (R461 to R469). -/
def Modifier.cost (s : State) (facts : CycleFacts) : Modifier → Nat
  | .m1 => if flag s.p .m then 0 else 1
  | .m2 => if flag s.p .m then 0 else 2
  | .x1 => if flag s.p .x then 0 else 1
  | .dl => if loByte s.d = 0 then 0 else 1
  | .px => if !flag s.p .x || facts.crossed then 1 else 0
  | .br => if facts.taken then (if s.e && facts.otherPage then 2 else 1) else 0
  | .bra => if s.e && facts.otherPage then 1 else 0
  | .e1 => if s.e then 0 else 1
  | .mv => 0

/-- The charge of an instruction: its base and its modifiers (R460). -/
def charge (s : State) (base : Nat) (modifiers : List Modifier) (facts : CycleFacts) : Nat :=
  base + (modifiers.map (Modifier.cost s facts)).sum

end Sys2Proof.Machine
end

