-- ==== Sys2Proof/Machine/Ops.lean ====
section
/-! DEFINITION. The named operations over registers, the stack and the instruction stream, and the taking of an
interrupt with the return from it. -/

namespace Sys2Proof.Machine

/-- What exec and step answer. -/
abbrev Answer := Host.Outcome State Fault Refusal

namespace State

/-- wM (10_state.md R32). -/
def wM (s : State) : Width := if flag s.p .m then .w8 else .w16

/-- wX (10_state.md R32). -/
def wX (s : State) : Width := if flag s.p .x then .w8 else .w16

/-- getA (10_state.md R33). -/
def getA (s : State) : Word := s.wM.trunc s.a

/-- getX (10_state.md R34). -/
def getX (s : State) : Word := s.wX.trunc s.x

/-- getY (10_state.md R34). -/
def getY (s : State) : Word := s.wX.trunc s.y

/-- setA (10_state.md R33): the high byte is kept at 8 bits. -/
def setA (s : State) (v : Word) : State := { s with a := s.wM.merge s.a v }

/-- setX (10_state.md R34): the high byte is zero at 8 bits. -/
def setX (s : State) (v : Word) : State := { s with x := s.wX.trunc v }

/-- setY (10_state.md R34): the high byte is zero at 8 bits. -/
def setY (s : State) (v : Word) : State := { s with y := s.wX.trunc v }

/-- Write the bus. -/
def withBus (s : State) (b : Bus) : State := { s with bus := b }

/-- Write P alone, for the rules that write single flags and neither M nor X. -/
def withP (s : State) (v : Byte) : State := { s with p := v }

/-- setNZ on the state's P (10_state.md R35). -/
def setNZ (s : State) (w : Width) (v : Word) : State := s.withP (Machine.setNZ s.p w v)

/-- Write one flag other than M and X. -/
def putFlag (s : State) (f : Flag) (value : Bool) : State := s.withP (setFlag s.p f value)

/-- setP (10_state.md R36): the whole status word, X and Y losing their high bytes where the new P.X is 1. -/
def setP (s : State) (v : Byte) : State :=
  { s with
    p := v
    x := if flag v .x then zextWord (loByte s.x) else s.x
    y := if flag v .x then zextWord (loByte s.y) else s.y }

/-- S <- v where a whole value is written, page 1 forced in emulation mode (10_state.md R30; TXS and TCS). -/
def transferToS (s : State) (v : Word) : State :=
  { s with sp := if s.e then mkWord 0x01 (loByte v) else v }

/-- Add to the cycle counter (40_dispatch.md R120). -/
def addCycles (s : State) (n : Nat) : State := { s with cycles := s.cycles + n }

/-- Set PC, PBR unchanged (00_scope.md R10). -/
def jump (s : State) (target : Word) : State := { s with pc := target }

/-- Set PBR and PC (45_control.md R271). -/
def jumpLong (s : State) (target : Addr) : State := { s with pbr := target.bank, pc := target.offset }

/-- push8 (46_stack.md R290): write at 0x00:S, then decrement. -/
def push8 (s : State) (v : Byte) : State :=
  { s with bus := s.bus.write (mkAddr 0x00 s.sp) v, sp := s.sp - 1 }

/-- push16 (46_stack.md R291): the high byte first. -/
def push16 (s : State) (v : Word) : State := (s.push8 (hiByte v)).push8 (loByte v)

/-- pop8 (46_stack.md R292): increment, then read at 0x00:S. -/
def pop8 (s : State) : Byte × State :=
  let r := s.bus.read (mkAddr 0x00 (s.sp + 1))
  (r.1, { s with sp := s.sp + 1, bus := r.2 })

/-- pop16 (46_stack.md R293): the low byte first. -/
def pop16 (s : State) : Word × State :=
  let lo := s.pop8
  let hi := lo.2.pop8
  (mkWord hi.1 lo.1, hi.2)

/-- fetch8 (40_dispatch.md R122): read at PBR:PC, then PC + 1 inside the bank. -/
def fetch8 (s : State) : Byte × State :=
  let r := s.bus.read (mkAddr s.pbr s.pc)
  (r.1, { s with pc := s.pc + 1, bus := r.2 })

end State

/-- The events that enter a handler through a vector (60_exceptions.md R401; RESET is cpuReset, ABORT never occurs, R418). -/
inductive Interrupt where
  | nmi
  | irq
  | brk
  | cop
deriving DecidableEq, Repr

/-- vec(kind), by the E of the step (60_exceptions.md R404). -/
def Interrupt.vector (e : Bool) : Interrupt → Word
  | .nmi => if e then 0xFFFA else 0xFFEA
  | .irq => if e then 0xFFFE else 0xFFEE
  | .brk => if e then 0xFFFE else 0xFFE6
  | .cop => if e then 0xFFF4 else 0xFFE4

/-- Entry to a handler, shared by NMI, IRQ, BRK and COP (60_exceptions.md R405, 45_control.md R276, R277): push PBR, PC
and P, set I, for an NMI clear the request, load PC from the vector, zero PBR. The charge is the caller's. -/
def State.enterInterrupt (s : State) (kind : Interrupt) : State :=
  let s1 := ((s.push8 s.pbr).push16 s.pc).push8 s.p
  let s2 := s1.putFlag .i true
  let b := if kind = .nmi then { s2.bus with nmiPending := false } else s2.bus
  let v := b.readBank2 0x00 (kind.vector s.e)
  { s2 with pc := v.1, pbr := 0x00, bus := v.2 }

/-- Return from a handler: pull P, PC and PBR (45_control.md R278, 60_exceptions.md R408). -/
def State.returnFromInterrupt (s : State) : State :=
  let p := s.pop8
  let pc := (p.2.setP p.1).pop16
  let pbr := (pc.2.jump pc.1).pop8
  { pbr.2 with pbr := pbr.1 }

/-- NMI or IRQ service as a step: the entry and its 7 cycles (60_exceptions.md R405, R416). -/
def State.serviceInterrupt (s : State) (kind : Interrupt) : State :=
  (({ s with waiting := false } : State).enterInterrupt kind).addCycles 7

end Sys2Proof.Machine
end

