-- ==== Sys2Proof/Syntax.lean ====
section
/-! DEFINITION. The instructions: one constructor per row of the opcode table (30_encoding.md R105), with its operand
bytes assembled into fields (R101). -/

namespace Sys2Proof

/-- The operand of an immM or immX instruction: one byte or two, as P.M or P.X selects at its fetch (30_encoding.md R102). -/
inductive Imm where
  | byte (v : Byte)
  | word (v : Word)
deriving DecidableEq, Repr

/-- The instructions. A constructor is named by its mnemonic and, where the mnemonic has several rows, its addressing
mode: Dp direct page, Ind a 16-bit pointer, IndL and long jumps a 24-bit one, Sr stack relative, X and Y the index,
Acc the accumulator. Fields: off is off8 or rel8 or rel16, addr is addr16 or addr24, sig a signature byte.
The rows with operand bytes stand first, in opcode order, then the one-byte rows. -/
inductive Instr where
  | brk (sig : Byte)
  | oraDpIndX (off : Byte)
  | cop (sig : Byte)
  | oraSr (off : Byte)
  | tsbDp (off : Byte)
  | oraDp (off : Byte)
  | aslDp (off : Byte)
  | oraDpIndL (off : Byte)
  | oraImm (v : Imm)
  | tsbAbs (addr : Word)
  | oraAbs (addr : Word)
  | aslAbs (addr : Word)
  | oraLong (addr : Addr)
  | bpl (off : Byte)
  | oraDpIndY (off : Byte)
  | oraDpInd (off : Byte)
  | oraSrIndY (off : Byte)
  | trbDp (off : Byte)
  | oraDpX (off : Byte)
  | aslDpX (off : Byte)
  | oraDpIndLY (off : Byte)
  | oraAbsY (addr : Word)
  | trbAbs (addr : Word)
  | oraAbsX (addr : Word)
  | aslAbsX (addr : Word)
  | oraLongX (addr : Addr)
  | jsrAbs (addr : Word)
  | andDpIndX (off : Byte)
  | jsl (addr : Addr)
  | andSr (off : Byte)
  | bitDp (off : Byte)
  | andDp (off : Byte)
  | rolDp (off : Byte)
  | andDpIndL (off : Byte)
  | andImm (v : Imm)
  | bitAbs (addr : Word)
  | andAbs (addr : Word)
  | rolAbs (addr : Word)
  | andLong (addr : Addr)
  | bmi (off : Byte)
  | andDpIndY (off : Byte)
  | andDpInd (off : Byte)
  | andSrIndY (off : Byte)
  | bitDpX (off : Byte)
  | andDpX (off : Byte)
  | rolDpX (off : Byte)
  | andDpIndLY (off : Byte)
  | andAbsY (addr : Word)
  | bitAbsX (addr : Word)
  | andAbsX (addr : Word)
  | rolAbsX (addr : Word)
  | andLongX (addr : Addr)
  | eorDpIndX (off : Byte)
  | wdm (sig : Byte)
  | eorSr (off : Byte)
  | mvp (dst : Byte) (src : Byte)
  | eorDp (off : Byte)
  | lsrDp (off : Byte)
  | eorDpIndL (off : Byte)
  | eorImm (v : Imm)
  | jmpAbs (addr : Word)
  | eorAbs (addr : Word)
  | lsrAbs (addr : Word)
  | eorLong (addr : Addr)
  | bvc (off : Byte)
  | eorDpIndY (off : Byte)
  | eorDpInd (off : Byte)
  | eorSrIndY (off : Byte)
  | mvn (dst : Byte) (src : Byte)
  | eorDpX (off : Byte)
  | lsrDpX (off : Byte)
  | eorDpIndLY (off : Byte)
  | eorAbsY (addr : Word)
  | jmlLong (addr : Addr)
  | eorAbsX (addr : Word)
  | lsrAbsX (addr : Word)
  | eorLongX (addr : Addr)
  | adcDpIndX (off : Byte)
  | per (off : Word)
  | adcSr (off : Byte)
  | stzDp (off : Byte)
  | adcDp (off : Byte)
  | rorDp (off : Byte)
  | adcDpIndL (off : Byte)
  | adcImm (v : Imm)
  | jmpInd (addr : Word)
  | adcAbs (addr : Word)
  | rorAbs (addr : Word)
  | adcLong (addr : Addr)
  | bvs (off : Byte)
  | adcDpIndY (off : Byte)
  | adcDpInd (off : Byte)
  | adcSrIndY (off : Byte)
  | stzDpX (off : Byte)
  | adcDpX (off : Byte)
  | rorDpX (off : Byte)
  | adcDpIndLY (off : Byte)
  | adcAbsY (addr : Word)
  | jmpIndX (addr : Word)
  | adcAbsX (addr : Word)
  | rorAbsX (addr : Word)
  | adcLongX (addr : Addr)
  | bra (off : Byte)
  | staDpIndX (off : Byte)
  | brl (off : Word)
  | staSr (off : Byte)
  | styDp (off : Byte)
  | staDp (off : Byte)
  | stxDp (off : Byte)
  | staDpIndL (off : Byte)
  | bitImm (v : Imm)
  | styAbs (addr : Word)
  | staAbs (addr : Word)
  | stxAbs (addr : Word)
  | staLong (addr : Addr)
  | bcc (off : Byte)
  | staDpIndY (off : Byte)
  | staDpInd (off : Byte)
  | staSrIndY (off : Byte)
  | styDpX (off : Byte)
  | staDpX (off : Byte)
  | stxDpY (off : Byte)
  | staDpIndLY (off : Byte)
  | staAbsY (addr : Word)
  | stzAbs (addr : Word)
  | staAbsX (addr : Word)
  | stzAbsX (addr : Word)
  | staLongX (addr : Addr)
  | ldyImm (v : Imm)
  | ldaDpIndX (off : Byte)
  | ldxImm (v : Imm)
  | ldaSr (off : Byte)
  | ldyDp (off : Byte)
  | ldaDp (off : Byte)
  | ldxDp (off : Byte)
  | ldaDpIndL (off : Byte)
  | ldaImm (v : Imm)
  | ldyAbs (addr : Word)
  | ldaAbs (addr : Word)
  | ldxAbs (addr : Word)
  | ldaLong (addr : Addr)
  | bcs (off : Byte)
  | ldaDpIndY (off : Byte)
  | ldaDpInd (off : Byte)
  | ldaSrIndY (off : Byte)
  | ldyDpX (off : Byte)
  | ldaDpX (off : Byte)
  | ldxDpY (off : Byte)
  | ldaDpIndLY (off : Byte)
  | ldaAbsY (addr : Word)
  | ldyAbsX (addr : Word)
  | ldaAbsX (addr : Word)
  | ldxAbsY (addr : Word)
  | ldaLongX (addr : Addr)
  | cpyImm (v : Imm)
  | cmpDpIndX (off : Byte)
  | rep (v : Byte)
  | cmpSr (off : Byte)
  | cpyDp (off : Byte)
  | cmpDp (off : Byte)
  | decDp (off : Byte)
  | cmpDpIndL (off : Byte)
  | cmpImm (v : Imm)
  | cpyAbs (addr : Word)
  | cmpAbs (addr : Word)
  | decAbs (addr : Word)
  | cmpLong (addr : Addr)
  | bne (off : Byte)
  | cmpDpIndY (off : Byte)
  | cmpDpInd (off : Byte)
  | cmpSrIndY (off : Byte)
  | pei (off : Byte)
  | cmpDpX (off : Byte)
  | decDpX (off : Byte)
  | cmpDpIndLY (off : Byte)
  | cmpAbsY (addr : Word)
  | jmlInd (addr : Word)
  | cmpAbsX (addr : Word)
  | decAbsX (addr : Word)
  | cmpLongX (addr : Addr)
  | cpxImm (v : Imm)
  | sbcDpIndX (off : Byte)
  | sep (v : Byte)
  | sbcSr (off : Byte)
  | cpxDp (off : Byte)
  | sbcDp (off : Byte)
  | incDp (off : Byte)
  | sbcDpIndL (off : Byte)
  | sbcImm (v : Imm)
  | cpxAbs (addr : Word)
  | sbcAbs (addr : Word)
  | incAbs (addr : Word)
  | sbcLong (addr : Addr)
  | beq (off : Byte)
  | sbcDpIndY (off : Byte)
  | sbcDpInd (off : Byte)
  | sbcSrIndY (off : Byte)
  | pea (v : Word)
  | sbcDpX (off : Byte)
  | incDpX (off : Byte)
  | sbcDpIndLY (off : Byte)
  | sbcAbsY (addr : Word)
  | jsrIndX (addr : Word)
  | sbcAbsX (addr : Word)
  | incAbsX (addr : Word)
  | sbcLongX (addr : Addr)
  | php
  | aslAcc
  | phd
  | clc
  | incAcc
  | tcs
  | plp
  | rolAcc
  | pld
  | sec
  | decAcc
  | tsc
  | rti
  | pha
  | lsrAcc
  | phk
  | cli
  | phy
  | tcd
  | rts
  | pla
  | rorAcc
  | rtl
  | sei
  | ply
  | tdc
  | dey
  | txa
  | phb
  | tya
  | txs
  | txy
  | tay
  | tax
  | plb
  | clv
  | tsx
  | tyx
  | iny
  | dex
  | wai
  | cld
  | phx
  | stp
  | inx
  | nop
  | xba
  | sed
  | plx
  | xce
deriving DecidableEq, Repr

end Sys2Proof
end

