-- ==== Sys2Proof/Machine/Operands.lean ====
section
/-! DEFINITION. The addressing modes: where an operand is, and reading it at a width (41_addressing.md). The operand
bytes have been fetched already: PC points at the next instruction (40_dispatch.md R123). -/

namespace Sys2Proof.Machine

/-- The data addressing modes with their operand bytes (41_addressing.md R142 to R157). -/
inductive AddrMode where
  | dp (off : Byte)
  | dpX (off : Byte)
  | dpY (off : Byte)
  | dpInd (off : Byte)
  | dpIndX (off : Byte)
  | dpIndY (off : Byte)
  | dpIndL (off : Byte)
  | dpIndLY (off : Byte)
  | abs (addr : Word)
  | absX (addr : Word)
  | absY (addr : Word)
  | long (addr : Addr)
  | longX (addr : Addr)
  | sr (off : Byte)
  | srIndY (off : Byte)
deriving DecidableEq, Repr

/-- Where an operand is: its effective address, the page-cross indicator, and the bus after the pointer reads. -/
structure Resolved where
  ea : Addr
  crossed : Bool
  bus : Bus
deriving DecidableEq, Repr

/-- (bank * 0x10000 + base + index) mod 2^24 (41_addressing.md R147, R152, R157). -/
def indexed (bank : Byte) (base index : Word) : Addr := mkAddr bank base + zextAddr index

/-- ((base + index) >> 8) != (base >> 8), the sum not truncated (70_reset_and_hazards.md R466). -/
def crossesPage (base index : Word) : Bool := (base.toNat + index.toNat) / 256 != base.toNat / 256

/-- The direct page location of an offset, (D + off8) mod 2^16 (41_addressing.md R142). -/
def State.direct (s : State) (off : Byte) : Word := s.d + zextWord off

/-- The stack location of an offset, (S + off8) mod 2^16 (41_addressing.md R156). -/
def State.stackRelative (s : State) (off : Byte) : Word := s.sp + zextWord off

/-- The effective address of a mode. -/
def AddrMode.resolve (s : State) : AddrMode → Resolved
  | .dp off => ⟨mkAddr 0x00 (s.direct off), false, s.bus⟩                                    -- R142
  | .dpX off => ⟨mkAddr 0x00 (s.direct off + s.getX), false, s.bus⟩                          -- R143
  | .dpY off => ⟨mkAddr 0x00 (s.direct off + s.getY), false, s.bus⟩                          -- R144
  | .dpInd off =>                                                                            -- R145
    let ptr := s.bus.readBank2 0x00 (s.direct off)
    ⟨mkAddr s.dbr ptr.1, false, ptr.2⟩
  | .dpIndX off =>                                                                           -- R146
    let ptr := s.bus.readBank2 0x00 (s.direct off + s.getX)
    ⟨mkAddr s.dbr ptr.1, false, ptr.2⟩
  | .dpIndY off =>                                                                           -- R147
    let ptr := s.bus.readBank2 0x00 (s.direct off)
    ⟨indexed s.dbr ptr.1 s.getY, crossesPage ptr.1 s.getY, ptr.2⟩
  | .dpIndL off =>                                                                           -- R149
    let ptr := s.bus.readBank3 0x00 (s.direct off)
    ⟨ptr.1, false, ptr.2⟩
  | .dpIndLY off =>                                                                          -- R150
    let ptr := s.bus.readBank3 0x00 (s.direct off)
    ⟨ptr.1 + zextAddr s.getY, false, ptr.2⟩
  | .abs addr => ⟨mkAddr s.dbr addr, false, s.bus⟩                                           -- R151
  | .absX addr => ⟨indexed s.dbr addr s.getX, crossesPage addr s.getX, s.bus⟩                -- R152
  | .absY addr => ⟨indexed s.dbr addr s.getY, crossesPage addr s.getY, s.bus⟩                -- R153
  | .long addr => ⟨addr, false, s.bus⟩                                                       -- R154
  | .longX addr => ⟨addr + zextAddr s.getX, false, s.bus⟩                                    -- R155
  | .sr off => ⟨mkAddr 0x00 (s.stackRelative off), false, s.bus⟩                             -- R156
  | .srIndY off =>                                                                           -- R157
    let ptr := s.bus.readBank2 0x00 (s.stackRelative off)
    ⟨indexed s.dbr ptr.1 s.getY, false, ptr.2⟩

/-- An operand that is read: an immediate or a location (41_addressing.md R141, R148). -/
inductive Operand where
  | imm (v : Imm)
  | mem (mode : AddrMode)
deriving DecidableEq, Repr

/-- Whether an operand is an immediate (43_alu.md R228). -/
def Operand.isImm : Operand → Bool
  | .imm _ => true
  | .mem _ => false

/-- An operand's value at a width, the page-cross indicator, and the bus after all its reads. -/
structure Fetched where
  value : Word
  crossed : Bool
  bus : Bus
deriving DecidableEq, Repr

/-- The value of an immediate as a word; a well-formed one has the width it is used at (log entry 11). -/
def immValue : Imm → Word
  | .byte v => zextWord v
  | .word v => v

/-- opM at wM and opX at wX (41_addressing.md R148). -/
def Operand.read (s : State) (w : Width) : Operand → Fetched
  | .imm v => ⟨w.trunc (immValue v), false, s.bus⟩
  | .mem mode =>
    let r := mode.resolve s
    let v := r.bus.readAt w r.ea
    ⟨v.1, r.crossed, v.2⟩

/-- The target of a rel8 operand, PC being the next instruction's (41_addressing.md R160). -/
def State.relTarget (s : State) (off : Byte) : Word := s.pc + sextWord off

/-- The target of a rel16 operand (41_addressing.md R161). -/
def State.relLongTarget (s : State) (off : Word) : Word := s.pc + off

/-- The pointer of (abs): read in bank 0 (41_addressing.md R162). -/
def State.indirectTarget (s : State) (addr : Word) : Word × Bus := s.bus.readBank2 0x00 addr

/-- The pointer of (abs,X): read in the program bank (41_addressing.md R163). -/
def State.indexedTarget (s : State) (addr : Word) : Word × Bus := s.bus.readBank2 s.pbr (addr + s.getX)

/-- The pointer of [abs]: three bytes in bank 0 (41_addressing.md R164). -/
def State.indirectLongTarget (s : State) (addr : Word) : Addr × Bus := s.bus.readBank3 0x00 addr

end Sys2Proof.Machine
end

