-- ==== Sys2Proof/Machine/Alu.lean ====
section
/-! DEFINITION. Arithmetic, logic, compare, bit test, increment, shift and test-and-set (43_alu.md): the shared
operations, then one meaning per row of the opcode table, with the base cycles and modifiers of its row. -/

namespace Sys2Proof.Machine

/-- A flag computation over the accumulator and an operand at a width (Machine/Flags.lean). -/
abbrev BinaryOp := Width → Byte → Word → Word → AluResult

/-- A flag computation over one value at a width (Machine/Flags.lean). -/
abbrev UnaryOp := Width → Byte → Word → AluResult

/-- AND (R222). -/
def bitAnd : BinaryOp := fun w p a m => ⟨a &&& m, setNZ p w (a &&& m)⟩

/-- ORA (R223). -/
def bitOr : BinaryOp := fun w p a m => ⟨a ||| m, setNZ p w (a ||| m)⟩

/-- EOR (R224). -/
def bitXor : BinaryOp := fun w p a m => ⟨a ^^^ m, setNZ p w (a ^^^ m)⟩

/-- An operation of the accumulator with an operand, the result in A (R220 to R224). -/
def binaryA (f : BinaryOp) (o : Operand) (base : Nat) (mods : List Modifier) (s : State) : State :=
  let r := o.read s s.wM
  let q := f s.wM s.p s.getA r.value
  (((s.withBus r.bus).setA q.value).withP q.p).addCycles (charge s base mods { crossed := r.crossed })

/-- A compare of a register's value with an operand at a width: flags only (R225 to R227). -/
def compareWith (w : Width) (v : Word) (o : Operand) (base : Nat) (mods : List Modifier) (s : State) : State :=
  let r := o.read s w
  ((s.withBus r.bus).withP (compareFlags w s.p v r.value)).addCycles (charge s base mods { crossed := r.crossed })

/-- CMP (R225). -/
def compareA (o : Operand) (base : Nat) (mods : List Modifier) (s : State) : State := compareWith s.wM s.getA o base mods s

/-- CPX (R226). -/
def compareX (o : Operand) (base : Nat) (mods : List Modifier) (s : State) : State := compareWith s.wX s.getX o base mods s

/-- CPY (R227). -/
def compareY (o : Operand) (base : Nat) (mods : List Modifier) (s : State) : State := compareWith s.wX s.getY o base mods s

/-- BIT (R228). -/
def testA (o : Operand) (base : Nat) (mods : List Modifier) (s : State) : State :=
  let r := o.read s s.wM
  ((s.withBus r.bus).withP (bitTest s.wM s.p s.getA r.value o.isImm)).addCycles
    (charge s base mods { crossed := r.crossed })

/-- A read-modify-write of memory at width wM: every byte read before any is written (R253). -/
def modifyMemory (f : UnaryOp) (mode : AddrMode) (base : Nat) (mods : List Modifier) (s : State) : State :=
  let r := mode.resolve s
  let v := r.bus.readAt s.wM r.ea
  let q := f s.wM s.p v.1
  ((s.withBus (v.2.writeAt s.wM r.ea q.value)).withP q.p).addCycles (charge s base mods {})

/-- The same on the accumulator (R253, 41_addressing.md R158). -/
def modifyA (f : UnaryOp) (base : Nat) (mods : List Modifier) (s : State) : State :=
  let q := f s.wM s.p s.getA
  ((s.setA q.value).withP q.p).addCycles (charge s base mods {})

/-- X moved by delta at width wX, NZ from the new X (R231, R233). -/
def stepX (delta : Word) (base : Nat) (mods : List Modifier) (s : State) : State :=
  ((s.setX (s.getX + delta)).setNZ s.wX (s.getX + delta)).addCycles (charge s base mods {})

/-- Y moved by delta at width wX, NZ from the new Y (R232, R234). -/
def stepY (delta : Word) (base : Nat) (mods : List Modifier) (s : State) : State :=
  ((s.setY (s.getY + delta)).setNZ s.wX (s.getY + delta)).addCycles (charge s base mods {})

/-- 0x61 ADC ($nn,X) (R220, R146). -/
def execAdcDpIndX (off : Byte) (s : State) : Answer :=
  .next (binaryA addWithCarry (.mem (.dpIndX off)) 6 [.m1, .dl] s)

/-- 0x63 ADC $nn,S (R220, R156). -/
def execAdcSr (off : Byte) (s : State) : Answer := .next (binaryA addWithCarry (.mem (.sr off)) 4 [.m1] s)

/-- 0x65 ADC $nn (R220, R142). -/
def execAdcDp (off : Byte) (s : State) : Answer := .next (binaryA addWithCarry (.mem (.dp off)) 3 [.m1, .dl] s)

/-- 0x67 ADC [$nn] (R220, R149). -/
def execAdcDpIndL (off : Byte) (s : State) : Answer :=
  .next (binaryA addWithCarry (.mem (.dpIndL off)) 6 [.m1, .dl] s)

/-- 0x69 ADC #$nn / #$nnnn (R220, R141). -/
def execAdcImm (v : Imm) (s : State) : Answer := .next (binaryA addWithCarry (.imm v) 2 [.m1] s)

/-- 0x6D ADC $nnnn (R220, R151). -/
def execAdcAbs (addr : Word) (s : State) : Answer := .next (binaryA addWithCarry (.mem (.abs addr)) 4 [.m1] s)

/-- 0x6F ADC $nnnnnn (R220, R154). -/
def execAdcLong (addr : Addr) (s : State) : Answer := .next (binaryA addWithCarry (.mem (.long addr)) 5 [.m1] s)

/-- 0x71 ADC ($nn),Y (R220, R147). -/
def execAdcDpIndY (off : Byte) (s : State) : Answer :=
  .next (binaryA addWithCarry (.mem (.dpIndY off)) 5 [.m1, .dl, .px] s)

/-- 0x72 ADC ($nn) (R220, R145). -/
def execAdcDpInd (off : Byte) (s : State) : Answer := .next (binaryA addWithCarry (.mem (.dpInd off)) 5 [.m1, .dl] s)

/-- 0x73 ADC ($nn,S),Y (R220, R157). -/
def execAdcSrIndY (off : Byte) (s : State) : Answer := .next (binaryA addWithCarry (.mem (.srIndY off)) 7 [.m1] s)

/-- 0x75 ADC $nn,X (R220, R143). -/
def execAdcDpX (off : Byte) (s : State) : Answer := .next (binaryA addWithCarry (.mem (.dpX off)) 4 [.m1, .dl] s)

/-- 0x77 ADC [$nn],Y (R220, R150). -/
def execAdcDpIndLY (off : Byte) (s : State) : Answer :=
  .next (binaryA addWithCarry (.mem (.dpIndLY off)) 6 [.m1, .dl] s)

/-- 0x79 ADC $nnnn,Y (R220, R153). -/
def execAdcAbsY (addr : Word) (s : State) : Answer := .next (binaryA addWithCarry (.mem (.absY addr)) 4 [.m1, .px] s)

/-- 0x7D ADC $nnnn,X (R220, R152). -/
def execAdcAbsX (addr : Word) (s : State) : Answer := .next (binaryA addWithCarry (.mem (.absX addr)) 4 [.m1, .px] s)

/-- 0x7F ADC $nnnnnn,X (R220, R155). -/
def execAdcLongX (addr : Addr) (s : State) : Answer := .next (binaryA addWithCarry (.mem (.longX addr)) 5 [.m1] s)

/-- 0xE1 SBC ($nn,X) (R221, R146). -/
def execSbcDpIndX (off : Byte) (s : State) : Answer :=
  .next (binaryA subWithBorrow (.mem (.dpIndX off)) 6 [.m1, .dl] s)

/-- 0xE3 SBC $nn,S (R221, R156). -/
def execSbcSr (off : Byte) (s : State) : Answer := .next (binaryA subWithBorrow (.mem (.sr off)) 4 [.m1] s)

/-- 0xE5 SBC $nn (R221, R142). -/
def execSbcDp (off : Byte) (s : State) : Answer := .next (binaryA subWithBorrow (.mem (.dp off)) 3 [.m1, .dl] s)

/-- 0xE7 SBC [$nn] (R221, R149). -/
def execSbcDpIndL (off : Byte) (s : State) : Answer :=
  .next (binaryA subWithBorrow (.mem (.dpIndL off)) 6 [.m1, .dl] s)

/-- 0xE9 SBC #$nn / #$nnnn (R221, R141). -/
def execSbcImm (v : Imm) (s : State) : Answer := .next (binaryA subWithBorrow (.imm v) 2 [.m1] s)

/-- 0xED SBC $nnnn (R221, R151). -/
def execSbcAbs (addr : Word) (s : State) : Answer := .next (binaryA subWithBorrow (.mem (.abs addr)) 4 [.m1] s)

/-- 0xEF SBC $nnnnnn (R221, R154). -/
def execSbcLong (addr : Addr) (s : State) : Answer := .next (binaryA subWithBorrow (.mem (.long addr)) 5 [.m1] s)

/-- 0xF1 SBC ($nn),Y (R221, R147). -/
def execSbcDpIndY (off : Byte) (s : State) : Answer :=
  .next (binaryA subWithBorrow (.mem (.dpIndY off)) 5 [.m1, .dl, .px] s)

/-- 0xF2 SBC ($nn) (R221, R145). -/
def execSbcDpInd (off : Byte) (s : State) : Answer := .next (binaryA subWithBorrow (.mem (.dpInd off)) 5 [.m1, .dl] s)

/-- 0xF3 SBC ($nn,S),Y (R221, R157). -/
def execSbcSrIndY (off : Byte) (s : State) : Answer := .next (binaryA subWithBorrow (.mem (.srIndY off)) 7 [.m1] s)

/-- 0xF5 SBC $nn,X (R221, R143). -/
def execSbcDpX (off : Byte) (s : State) : Answer := .next (binaryA subWithBorrow (.mem (.dpX off)) 4 [.m1, .dl] s)

/-- 0xF7 SBC [$nn],Y (R221, R150). -/
def execSbcDpIndLY (off : Byte) (s : State) : Answer :=
  .next (binaryA subWithBorrow (.mem (.dpIndLY off)) 6 [.m1, .dl] s)

/-- 0xF9 SBC $nnnn,Y (R221, R153). -/
def execSbcAbsY (addr : Word) (s : State) : Answer := .next (binaryA subWithBorrow (.mem (.absY addr)) 4 [.m1, .px] s)

/-- 0xFD SBC $nnnn,X (R221, R152). -/
def execSbcAbsX (addr : Word) (s : State) : Answer := .next (binaryA subWithBorrow (.mem (.absX addr)) 4 [.m1, .px] s)

/-- 0xFF SBC $nnnnnn,X (R221, R155). -/
def execSbcLongX (addr : Addr) (s : State) : Answer := .next (binaryA subWithBorrow (.mem (.longX addr)) 5 [.m1] s)

/-- 0x21 AND ($nn,X) (R222, R146). -/
def execAndDpIndX (off : Byte) (s : State) : Answer := .next (binaryA bitAnd (.mem (.dpIndX off)) 6 [.m1, .dl] s)

/-- 0x23 AND $nn,S (R222, R156). -/
def execAndSr (off : Byte) (s : State) : Answer := .next (binaryA bitAnd (.mem (.sr off)) 4 [.m1] s)

/-- 0x25 AND $nn (R222, R142). -/
def execAndDp (off : Byte) (s : State) : Answer := .next (binaryA bitAnd (.mem (.dp off)) 3 [.m1, .dl] s)

/-- 0x27 AND [$nn] (R222, R149). -/
def execAndDpIndL (off : Byte) (s : State) : Answer := .next (binaryA bitAnd (.mem (.dpIndL off)) 6 [.m1, .dl] s)

/-- 0x29 AND #$nn / #$nnnn (R222, R141). -/
def execAndImm (v : Imm) (s : State) : Answer := .next (binaryA bitAnd (.imm v) 2 [.m1] s)

/-- 0x2D AND $nnnn (R222, R151). -/
def execAndAbs (addr : Word) (s : State) : Answer := .next (binaryA bitAnd (.mem (.abs addr)) 4 [.m1] s)

/-- 0x2F AND $nnnnnn (R222, R154). -/
def execAndLong (addr : Addr) (s : State) : Answer := .next (binaryA bitAnd (.mem (.long addr)) 5 [.m1] s)

/-- 0x31 AND ($nn),Y (R222, R147). -/
def execAndDpIndY (off : Byte) (s : State) : Answer := .next (binaryA bitAnd (.mem (.dpIndY off)) 5 [.m1, .dl, .px] s)

/-- 0x32 AND ($nn) (R222, R145). -/
def execAndDpInd (off : Byte) (s : State) : Answer := .next (binaryA bitAnd (.mem (.dpInd off)) 5 [.m1, .dl] s)

/-- 0x33 AND ($nn,S),Y (R222, R157). -/
def execAndSrIndY (off : Byte) (s : State) : Answer := .next (binaryA bitAnd (.mem (.srIndY off)) 7 [.m1] s)

/-- 0x35 AND $nn,X (R222, R143). -/
def execAndDpX (off : Byte) (s : State) : Answer := .next (binaryA bitAnd (.mem (.dpX off)) 4 [.m1, .dl] s)

/-- 0x37 AND [$nn],Y (R222, R150). -/
def execAndDpIndLY (off : Byte) (s : State) : Answer := .next (binaryA bitAnd (.mem (.dpIndLY off)) 6 [.m1, .dl] s)

/-- 0x39 AND $nnnn,Y (R222, R153). -/
def execAndAbsY (addr : Word) (s : State) : Answer := .next (binaryA bitAnd (.mem (.absY addr)) 4 [.m1, .px] s)

/-- 0x3D AND $nnnn,X (R222, R152). -/
def execAndAbsX (addr : Word) (s : State) : Answer := .next (binaryA bitAnd (.mem (.absX addr)) 4 [.m1, .px] s)

/-- 0x3F AND $nnnnnn,X (R222, R155). -/
def execAndLongX (addr : Addr) (s : State) : Answer := .next (binaryA bitAnd (.mem (.longX addr)) 5 [.m1] s)

/-- 0x01 ORA ($nn,X) (R223, R146). -/
def execOraDpIndX (off : Byte) (s : State) : Answer := .next (binaryA bitOr (.mem (.dpIndX off)) 6 [.m1, .dl] s)

/-- 0x03 ORA $nn,S (R223, R156). -/
def execOraSr (off : Byte) (s : State) : Answer := .next (binaryA bitOr (.mem (.sr off)) 4 [.m1] s)

/-- 0x05 ORA $nn (R223, R142). -/
def execOraDp (off : Byte) (s : State) : Answer := .next (binaryA bitOr (.mem (.dp off)) 3 [.m1, .dl] s)

/-- 0x07 ORA [$nn] (R223, R149). -/
def execOraDpIndL (off : Byte) (s : State) : Answer := .next (binaryA bitOr (.mem (.dpIndL off)) 6 [.m1, .dl] s)

/-- 0x09 ORA #$nn / #$nnnn (R223, R141). -/
def execOraImm (v : Imm) (s : State) : Answer := .next (binaryA bitOr (.imm v) 2 [.m1] s)

/-- 0x0D ORA $nnnn (R223, R151). -/
def execOraAbs (addr : Word) (s : State) : Answer := .next (binaryA bitOr (.mem (.abs addr)) 4 [.m1] s)

/-- 0x0F ORA $nnnnnn (R223, R154). -/
def execOraLong (addr : Addr) (s : State) : Answer := .next (binaryA bitOr (.mem (.long addr)) 5 [.m1] s)

/-- 0x11 ORA ($nn),Y (R223, R147). -/
def execOraDpIndY (off : Byte) (s : State) : Answer := .next (binaryA bitOr (.mem (.dpIndY off)) 5 [.m1, .dl, .px] s)

/-- 0x12 ORA ($nn) (R223, R145). -/
def execOraDpInd (off : Byte) (s : State) : Answer := .next (binaryA bitOr (.mem (.dpInd off)) 5 [.m1, .dl] s)

/-- 0x13 ORA ($nn,S),Y (R223, R157). -/
def execOraSrIndY (off : Byte) (s : State) : Answer := .next (binaryA bitOr (.mem (.srIndY off)) 7 [.m1] s)

/-- 0x15 ORA $nn,X (R223, R143). -/
def execOraDpX (off : Byte) (s : State) : Answer := .next (binaryA bitOr (.mem (.dpX off)) 4 [.m1, .dl] s)

/-- 0x17 ORA [$nn],Y (R223, R150). -/
def execOraDpIndLY (off : Byte) (s : State) : Answer := .next (binaryA bitOr (.mem (.dpIndLY off)) 6 [.m1, .dl] s)

/-- 0x19 ORA $nnnn,Y (R223, R153). -/
def execOraAbsY (addr : Word) (s : State) : Answer := .next (binaryA bitOr (.mem (.absY addr)) 4 [.m1, .px] s)

/-- 0x1D ORA $nnnn,X (R223, R152). -/
def execOraAbsX (addr : Word) (s : State) : Answer := .next (binaryA bitOr (.mem (.absX addr)) 4 [.m1, .px] s)

/-- 0x1F ORA $nnnnnn,X (R223, R155). -/
def execOraLongX (addr : Addr) (s : State) : Answer := .next (binaryA bitOr (.mem (.longX addr)) 5 [.m1] s)

/-- 0x41 EOR ($nn,X) (R224, R146). -/
def execEorDpIndX (off : Byte) (s : State) : Answer := .next (binaryA bitXor (.mem (.dpIndX off)) 6 [.m1, .dl] s)

/-- 0x43 EOR $nn,S (R224, R156). -/
def execEorSr (off : Byte) (s : State) : Answer := .next (binaryA bitXor (.mem (.sr off)) 4 [.m1] s)

/-- 0x45 EOR $nn (R224, R142). -/
def execEorDp (off : Byte) (s : State) : Answer := .next (binaryA bitXor (.mem (.dp off)) 3 [.m1, .dl] s)

/-- 0x47 EOR [$nn] (R224, R149). -/
def execEorDpIndL (off : Byte) (s : State) : Answer := .next (binaryA bitXor (.mem (.dpIndL off)) 6 [.m1, .dl] s)

/-- 0x49 EOR #$nn / #$nnnn (R224, R141). -/
def execEorImm (v : Imm) (s : State) : Answer := .next (binaryA bitXor (.imm v) 2 [.m1] s)

/-- 0x4D EOR $nnnn (R224, R151). -/
def execEorAbs (addr : Word) (s : State) : Answer := .next (binaryA bitXor (.mem (.abs addr)) 4 [.m1] s)

/-- 0x4F EOR $nnnnnn (R224, R154). -/
def execEorLong (addr : Addr) (s : State) : Answer := .next (binaryA bitXor (.mem (.long addr)) 5 [.m1] s)

/-- 0x51 EOR ($nn),Y (R224, R147). -/
def execEorDpIndY (off : Byte) (s : State) : Answer := .next (binaryA bitXor (.mem (.dpIndY off)) 5 [.m1, .dl, .px] s)

/-- 0x52 EOR ($nn) (R224, R145). -/
def execEorDpInd (off : Byte) (s : State) : Answer := .next (binaryA bitXor (.mem (.dpInd off)) 5 [.m1, .dl] s)

/-- 0x53 EOR ($nn,S),Y (R224, R157). -/
def execEorSrIndY (off : Byte) (s : State) : Answer := .next (binaryA bitXor (.mem (.srIndY off)) 7 [.m1] s)

/-- 0x55 EOR $nn,X (R224, R143). -/
def execEorDpX (off : Byte) (s : State) : Answer := .next (binaryA bitXor (.mem (.dpX off)) 4 [.m1, .dl] s)

/-- 0x57 EOR [$nn],Y (R224, R150). -/
def execEorDpIndLY (off : Byte) (s : State) : Answer := .next (binaryA bitXor (.mem (.dpIndLY off)) 6 [.m1, .dl] s)

/-- 0x59 EOR $nnnn,Y (R224, R153). -/
def execEorAbsY (addr : Word) (s : State) : Answer := .next (binaryA bitXor (.mem (.absY addr)) 4 [.m1, .px] s)

/-- 0x5D EOR $nnnn,X (R224, R152). -/
def execEorAbsX (addr : Word) (s : State) : Answer := .next (binaryA bitXor (.mem (.absX addr)) 4 [.m1, .px] s)

/-- 0x5F EOR $nnnnnn,X (R224, R155). -/
def execEorLongX (addr : Addr) (s : State) : Answer := .next (binaryA bitXor (.mem (.longX addr)) 5 [.m1] s)

/-- 0xC1 CMP ($nn,X) (R225, R146). -/
def execCmpDpIndX (off : Byte) (s : State) : Answer := .next (compareA (.mem (.dpIndX off)) 6 [.m1, .dl] s)

/-- 0xC3 CMP $nn,S (R225, R156). -/
def execCmpSr (off : Byte) (s : State) : Answer := .next (compareA (.mem (.sr off)) 4 [.m1] s)

/-- 0xC5 CMP $nn (R225, R142). -/
def execCmpDp (off : Byte) (s : State) : Answer := .next (compareA (.mem (.dp off)) 3 [.m1, .dl] s)

/-- 0xC7 CMP [$nn] (R225, R149). -/
def execCmpDpIndL (off : Byte) (s : State) : Answer := .next (compareA (.mem (.dpIndL off)) 6 [.m1, .dl] s)

/-- 0xC9 CMP #$nn / #$nnnn (R225, R141). -/
def execCmpImm (v : Imm) (s : State) : Answer := .next (compareA (.imm v) 2 [.m1] s)

/-- 0xCD CMP $nnnn (R225, R151). -/
def execCmpAbs (addr : Word) (s : State) : Answer := .next (compareA (.mem (.abs addr)) 4 [.m1] s)

/-- 0xCF CMP $nnnnnn (R225, R154). -/
def execCmpLong (addr : Addr) (s : State) : Answer := .next (compareA (.mem (.long addr)) 5 [.m1] s)

/-- 0xD1 CMP ($nn),Y (R225, R147). -/
def execCmpDpIndY (off : Byte) (s : State) : Answer := .next (compareA (.mem (.dpIndY off)) 5 [.m1, .dl, .px] s)

/-- 0xD2 CMP ($nn) (R225, R145). -/
def execCmpDpInd (off : Byte) (s : State) : Answer := .next (compareA (.mem (.dpInd off)) 5 [.m1, .dl] s)

/-- 0xD3 CMP ($nn,S),Y (R225, R157). -/
def execCmpSrIndY (off : Byte) (s : State) : Answer := .next (compareA (.mem (.srIndY off)) 7 [.m1] s)

/-- 0xD5 CMP $nn,X (R225, R143). -/
def execCmpDpX (off : Byte) (s : State) : Answer := .next (compareA (.mem (.dpX off)) 4 [.m1, .dl] s)

/-- 0xD7 CMP [$nn],Y (R225, R150). -/
def execCmpDpIndLY (off : Byte) (s : State) : Answer := .next (compareA (.mem (.dpIndLY off)) 6 [.m1, .dl] s)

/-- 0xD9 CMP $nnnn,Y (R225, R153). -/
def execCmpAbsY (addr : Word) (s : State) : Answer := .next (compareA (.mem (.absY addr)) 4 [.m1, .px] s)

/-- 0xDD CMP $nnnn,X (R225, R152). -/
def execCmpAbsX (addr : Word) (s : State) : Answer := .next (compareA (.mem (.absX addr)) 4 [.m1, .px] s)

/-- 0xDF CMP $nnnnnn,X (R225, R155). -/
def execCmpLongX (addr : Addr) (s : State) : Answer := .next (compareA (.mem (.longX addr)) 5 [.m1] s)

/-- 0xE0 CPX #$nn / #$nnnn (R226, R141). -/
def execCpxImm (v : Imm) (s : State) : Answer := .next (compareX (.imm v) 2 [.x1] s)

/-- 0xE4 CPX $nn (R226, R142). -/
def execCpxDp (off : Byte) (s : State) : Answer := .next (compareX (.mem (.dp off)) 3 [.x1, .dl] s)

/-- 0xEC CPX $nnnn (R226, R151). -/
def execCpxAbs (addr : Word) (s : State) : Answer := .next (compareX (.mem (.abs addr)) 4 [.x1] s)

/-- 0xC0 CPY #$nn / #$nnnn (R227, R141). -/
def execCpyImm (v : Imm) (s : State) : Answer := .next (compareY (.imm v) 2 [.x1] s)

/-- 0xC4 CPY $nn (R227, R142). -/
def execCpyDp (off : Byte) (s : State) : Answer := .next (compareY (.mem (.dp off)) 3 [.x1, .dl] s)

/-- 0xCC CPY $nnnn (R227, R151). -/
def execCpyAbs (addr : Word) (s : State) : Answer := .next (compareY (.mem (.abs addr)) 4 [.x1] s)

/-- 0x24 BIT $nn (R228, R142). -/
def execBitDp (off : Byte) (s : State) : Answer := .next (testA (.mem (.dp off)) 3 [.m1, .dl] s)

/-- 0x2C BIT $nnnn (R228, R151). -/
def execBitAbs (addr : Word) (s : State) : Answer := .next (testA (.mem (.abs addr)) 4 [.m1] s)

/-- 0x34 BIT $nn,X (R228, R143). -/
def execBitDpX (off : Byte) (s : State) : Answer := .next (testA (.mem (.dpX off)) 4 [.m1, .dl] s)

/-- 0x3C BIT $nnnn,X (R228, R152). -/
def execBitAbsX (addr : Word) (s : State) : Answer := .next (testA (.mem (.absX addr)) 4 [.m1, .px] s)

/-- 0x89 BIT #$nn / #$nnnn (R228, R141). -/
def execBitImm (v : Imm) (s : State) : Answer := .next (testA (.imm v) 2 [.m1] s)

/-- 0x1A INC A (R229, R158). -/
def execIncAcc (s : State) : Answer := .next (modifyA increment 2 [] s)

/-- 0xE6 INC $nn (R229, R142). -/
def execIncDp (off : Byte) (s : State) : Answer := .next (modifyMemory increment (.dp off) 5 [.m2, .dl] s)

/-- 0xEE INC $nnnn (R229, R151). -/
def execIncAbs (addr : Word) (s : State) : Answer := .next (modifyMemory increment (.abs addr) 6 [.m2] s)

/-- 0xF6 INC $nn,X (R229, R143). -/
def execIncDpX (off : Byte) (s : State) : Answer := .next (modifyMemory increment (.dpX off) 6 [.m2, .dl] s)

/-- 0xFE INC $nnnn,X (R229, R152). -/
def execIncAbsX (addr : Word) (s : State) : Answer := .next (modifyMemory increment (.absX addr) 7 [.m2] s)

/-- 0x3A DEC A (R230, R158). -/
def execDecAcc (s : State) : Answer := .next (modifyA decrement 2 [] s)

/-- 0xC6 DEC $nn (R230, R142). -/
def execDecDp (off : Byte) (s : State) : Answer := .next (modifyMemory decrement (.dp off) 5 [.m2, .dl] s)

/-- 0xCE DEC $nnnn (R230, R151). -/
def execDecAbs (addr : Word) (s : State) : Answer := .next (modifyMemory decrement (.abs addr) 6 [.m2] s)

/-- 0xD6 DEC $nn,X (R230, R143). -/
def execDecDpX (off : Byte) (s : State) : Answer := .next (modifyMemory decrement (.dpX off) 6 [.m2, .dl] s)

/-- 0xDE DEC $nnnn,X (R230, R152). -/
def execDecAbsX (addr : Word) (s : State) : Answer := .next (modifyMemory decrement (.absX addr) 7 [.m2] s)

/-- 0xE8 INX (R231, R159). -/
def execInx (s : State) : Answer := .next (stepX 1 2 [] s)

/-- 0xC8 INY (R232, R159). -/
def execIny (s : State) : Answer := .next (stepY 1 2 [] s)

/-- 0xCA DEX (R233, R159). -/
def execDex (s : State) : Answer := .next (stepX (-1) 2 [] s)

/-- 0x88 DEY (R234, R159). -/
def execDey (s : State) : Answer := .next (stepY (-1) 2 [] s)

/-- 0x06 ASL $nn (R235, R142). -/
def execAslDp (off : Byte) (s : State) : Answer := .next (modifyMemory shiftLeft (.dp off) 5 [.m2, .dl] s)

/-- 0x0A ASL A (R235, R158). -/
def execAslAcc (s : State) : Answer := .next (modifyA shiftLeft 2 [] s)

/-- 0x0E ASL $nnnn (R235, R151). -/
def execAslAbs (addr : Word) (s : State) : Answer := .next (modifyMemory shiftLeft (.abs addr) 6 [.m2] s)

/-- 0x16 ASL $nn,X (R235, R143). -/
def execAslDpX (off : Byte) (s : State) : Answer := .next (modifyMemory shiftLeft (.dpX off) 6 [.m2, .dl] s)

/-- 0x1E ASL $nnnn,X (R235, R152). -/
def execAslAbsX (addr : Word) (s : State) : Answer := .next (modifyMemory shiftLeft (.absX addr) 7 [.m2] s)

/-- 0x46 LSR $nn (R236, R142). -/
def execLsrDp (off : Byte) (s : State) : Answer := .next (modifyMemory shiftRight (.dp off) 5 [.m2, .dl] s)

/-- 0x4A LSR A (R236, R158). -/
def execLsrAcc (s : State) : Answer := .next (modifyA shiftRight 2 [] s)

/-- 0x4E LSR $nnnn (R236, R151). -/
def execLsrAbs (addr : Word) (s : State) : Answer := .next (modifyMemory shiftRight (.abs addr) 6 [.m2] s)

/-- 0x56 LSR $nn,X (R236, R143). -/
def execLsrDpX (off : Byte) (s : State) : Answer := .next (modifyMemory shiftRight (.dpX off) 6 [.m2, .dl] s)

/-- 0x5E LSR $nnnn,X (R236, R152). -/
def execLsrAbsX (addr : Word) (s : State) : Answer := .next (modifyMemory shiftRight (.absX addr) 7 [.m2] s)

/-- 0x26 ROL $nn (R237, R142). -/
def execRolDp (off : Byte) (s : State) : Answer := .next (modifyMemory rotateLeft (.dp off) 5 [.m2, .dl] s)

/-- 0x2A ROL A (R237, R158). -/
def execRolAcc (s : State) : Answer := .next (modifyA rotateLeft 2 [] s)

/-- 0x2E ROL $nnnn (R237, R151). -/
def execRolAbs (addr : Word) (s : State) : Answer := .next (modifyMemory rotateLeft (.abs addr) 6 [.m2] s)

/-- 0x36 ROL $nn,X (R237, R143). -/
def execRolDpX (off : Byte) (s : State) : Answer := .next (modifyMemory rotateLeft (.dpX off) 6 [.m2, .dl] s)

/-- 0x3E ROL $nnnn,X (R237, R152). -/
def execRolAbsX (addr : Word) (s : State) : Answer := .next (modifyMemory rotateLeft (.absX addr) 7 [.m2] s)

/-- 0x66 ROR $nn (R238, R142). -/
def execRorDp (off : Byte) (s : State) : Answer := .next (modifyMemory rotateRight (.dp off) 5 [.m2, .dl] s)

/-- 0x6A ROR A (R238, R158). -/
def execRorAcc (s : State) : Answer := .next (modifyA rotateRight 2 [] s)

/-- 0x6E ROR $nnnn (R238, R151). -/
def execRorAbs (addr : Word) (s : State) : Answer := .next (modifyMemory rotateRight (.abs addr) 6 [.m2] s)

/-- 0x76 ROR $nn,X (R238, R143). -/
def execRorDpX (off : Byte) (s : State) : Answer := .next (modifyMemory rotateRight (.dpX off) 6 [.m2, .dl] s)

/-- 0x7E ROR $nnnn,X (R238, R152). -/
def execRorAbsX (addr : Word) (s : State) : Answer := .next (modifyMemory rotateRight (.absX addr) 7 [.m2] s)

/-- 0x04 TSB $nn (R239, R142). -/
def execTsbDp (off : Byte) (s : State) : Answer :=
  .next (modifyMemory (fun w p v => testAndSet w s.getA p v) (.dp off) 5 [.m2, .dl] s)

/-- 0x0C TSB $nnnn (R239, R151). -/
def execTsbAbs (addr : Word) (s : State) : Answer :=
  .next (modifyMemory (fun w p v => testAndSet w s.getA p v) (.abs addr) 6 [.m2] s)

/-- 0x14 TRB $nn (R240, R142). -/
def execTrbDp (off : Byte) (s : State) : Answer :=
  .next (modifyMemory (fun w p v => testAndReset w s.getA p v) (.dp off) 5 [.m2, .dl] s)

/-- 0x1C TRB $nnnn (R240, R151). -/
def execTrbAbs (addr : Word) (s : State) : Answer :=
  .next (modifyMemory (fun w p v => testAndReset w s.getA p v) (.abs addr) 6 [.m2] s)

end Sys2Proof.Machine
end

