-- ==== Sys2Proof/Machine/Control.lean ====
section
/-! DEFINITION. Branches, jumps, calls, returns, software interrupts and the return from interrupt (45_control.md): the
shared operations, then one meaning per row of the opcode table, with the base cycles and modifiers of its row. PC is
the next instruction's offset (40_dispatch.md R123). -/

namespace Sys2Proof.Machine

/-- A relative branch under a condition (R280; BRA R268 with the condition true). -/
def branchIf (cond : Bool) (off : Byte) (base : Nat) (mods : List Modifier) (s : State) : State :=
  let target := s.relTarget off
  (s.jump (if cond then target else s.pc)).addCycles
    (charge s base mods { taken := cond, otherPage := hiByte target != hiByte s.pc })

/-- A jump to a known target in the bank (R269, R270). -/
def jumpTo (target : Word) (base : Nat) (mods : List Modifier) (s : State) : State :=
  (s.jump target).addCycles (charge s base mods {})

/-- JMP (abs) and JMP (abs,X): the target and the bus after its pointer was read (R270). -/
def jumpThrough (target : Word × Bus) (base : Nat) (mods : List Modifier) (s : State) : State :=
  ((s.withBus target.2).jump target.1).addCycles (charge s base mods {})

/-- JML (R271). -/
def jumpLongThrough (target : Addr × Bus) (base : Nat) (mods : List Modifier) (s : State) : State :=
  ((s.withBus target.2).jumpLong target.1).addCycles (charge s base mods {})

/-- JSR abs: push the offset of the instruction's last byte, then jump (R272). -/
def callTo (target : Word) (base : Nat) (mods : List Modifier) (s : State) : State :=
  ((s.push16 (s.pc - 1)).jump target).addCycles (charge s base mods {})

/-- JSR (abs,X): the pointer is read after the push (R272). -/
def callThrough (addr : Word) (base : Nat) (mods : List Modifier) (s : State) : State :=
  let s1 := s.push16 (s.pc - 1)
  let t := s1.indexedTarget addr
  ((s1.withBus t.2).jump t.1).addCycles (charge s base mods {})

/-- JSL: push PBR, then the offset of the instruction's last byte, then jump (R273). -/
def callLong (target : Addr) (base : Nat) (mods : List Modifier) (s : State) : State :=
  (((s.push8 s.pbr).push16 (s.pc - 1)).jumpLong target).addCycles (charge s base mods {})

/-- RTS (R274). -/
def returnNear (base : Nat) (mods : List Modifier) (s : State) : State :=
  let r := s.pop16
  (r.2.jump (r.1 + 1)).addCycles (charge s base mods {})

/-- RTL (R275). -/
def returnLong (base : Nat) (mods : List Modifier) (s : State) : State :=
  let r := s.pop16
  let b := (r.2.jump (r.1 + 1)).pop8
  ({ b.2 with pbr := b.1 } : State).addCycles (charge s base mods {})

/-- BRK and COP (R276, R277). -/
def softInterrupt (kind : Interrupt) (base : Nat) (mods : List Modifier) (s : State) : State :=
  (s.enterInterrupt kind).addCycles (charge s base mods {})

/-- RTI (R278). -/
def returnInterrupt (base : Nat) (mods : List Modifier) (s : State) : State :=
  s.returnFromInterrupt.addCycles (charge s base mods {})

/-- 0x10 BPL label (R260, R160). -/
def execBpl (off : Byte) (s : State) : Answer := .next (branchIf (!flag s.p .n) off 2 [.br] s)

/-- 0x30 BMI label (R261, R160). -/
def execBmi (off : Byte) (s : State) : Answer := .next (branchIf (flag s.p .n) off 2 [.br] s)

/-- 0x50 BVC label (R262, R160). -/
def execBvc (off : Byte) (s : State) : Answer := .next (branchIf (!flag s.p .v) off 2 [.br] s)

/-- 0x70 BVS label (R263, R160). -/
def execBvs (off : Byte) (s : State) : Answer := .next (branchIf (flag s.p .v) off 2 [.br] s)

/-- 0x90 BCC label (R264, R160). -/
def execBcc (off : Byte) (s : State) : Answer := .next (branchIf (!flag s.p .c) off 2 [.br] s)

/-- 0xB0 BCS label (R265, R160). -/
def execBcs (off : Byte) (s : State) : Answer := .next (branchIf (flag s.p .c) off 2 [.br] s)

/-- 0xD0 BNE label (R266, R160). -/
def execBne (off : Byte) (s : State) : Answer := .next (branchIf (!flag s.p .z) off 2 [.br] s)

/-- 0xF0 BEQ label (R267, R160). -/
def execBeq (off : Byte) (s : State) : Answer := .next (branchIf (flag s.p .z) off 2 [.br] s)

/-- 0x80 BRA label (R268, R160). -/
def execBra (off : Byte) (s : State) : Answer := .next (branchIf true off 3 [.bra] s)

/-- 0x82 BRL label (R269, R161). -/
def execBrl (off : Word) (s : State) : Answer := .next (jumpTo (s.relLongTarget off) 4 [] s)

/-- 0x4C JMP $nnnn (R270, R165). -/
def execJmpAbs (addr : Word) (s : State) : Answer := .next (jumpTo addr 3 [] s)

/-- 0x6C JMP ($nnnn) (R270, R162). -/
def execJmpInd (addr : Word) (s : State) : Answer := .next (jumpThrough (s.indirectTarget addr) 5 [] s)

/-- 0x7C JMP ($nnnn,X) (R270, R163). -/
def execJmpIndX (addr : Word) (s : State) : Answer := .next (jumpThrough (s.indexedTarget addr) 6 [] s)

/-- 0x5C JML $nnnnnn (R271, R166). -/
def execJmlLong (addr : Addr) (s : State) : Answer := .next (jumpLongThrough (addr, s.bus) 4 [] s)

/-- 0xDC JML [$nnnn] (R271, R164). -/
def execJmlInd (addr : Word) (s : State) : Answer := .next (jumpLongThrough (s.indirectLongTarget addr) 6 [] s)

/-- 0x20 JSR $nnnn (R272, R165). -/
def execJsrAbs (addr : Word) (s : State) : Answer := .next (callTo addr 6 [] s)

/-- 0xFC JSR ($nnnn,X) (R272, R163). -/
def execJsrIndX (addr : Word) (s : State) : Answer := .next (callThrough addr 8 [] s)

/-- 0x22 JSL $nnnnnn (R273, R166). -/
def execJsl (addr : Addr) (s : State) : Answer := .next (callLong addr 8 [] s)

/-- 0x60 RTS (R274, R159). -/
def execRts (s : State) : Answer := .next (returnNear 6 [] s)

/-- 0x6B RTL (R275, R159). -/
def execRtl (s : State) : Answer := .next (returnLong 6 [] s)

/-- 0x00 BRK #$nn (R276, R141). -/
def execBrk (_sig : Byte) (s : State) : Answer := .next (softInterrupt .brk 7 [.e1] s)

/-- 0x02 COP #$nn (R277, R141). -/
def execCop (_sig : Byte) (s : State) : Answer := .next (softInterrupt .cop 7 [.e1] s)

/-- 0x40 RTI (R278, R159). -/
def execRti (s : State) : Answer := .next (returnInterrupt 6 [.e1] s)

end Sys2Proof.Machine
end

