-- ==== Sys2Proof/Machine/LoadStore.lean ====
section
/-! DEFINITION. Loads, stores, transfers and block moves (42_load_store_transfer.md): the shared operations, then one
meaning per row of the opcode table, with the base cycles and modifiers of its row (30_encoding.md R105). -/

namespace Sys2Proof.Machine

/-- LDA: v <- opM; setA(v); setNZ(v, wM) (R180). -/
def loadA (o : Operand) (base : Nat) (mods : List Modifier) (s : State) : State :=
  let r := o.read s s.wM
  (((s.withBus r.bus).setA r.value).setNZ s.wM r.value).addCycles (charge s base mods { crossed := r.crossed })

/-- LDX: v <- opX; setX(v); setNZ(v, wX) (R181). -/
def loadX (o : Operand) (base : Nat) (mods : List Modifier) (s : State) : State :=
  let r := o.read s s.wX
  (((s.withBus r.bus).setX r.value).setNZ s.wX r.value).addCycles (charge s base mods { crossed := r.crossed })

/-- LDY: v <- opX; setY(v); setNZ(v, wX) (R182). -/
def loadY (o : Operand) (base : Nat) (mods : List Modifier) (s : State) : State :=
  let r := o.read s s.wX
  (((s.withBus r.bus).setY r.value).setNZ s.wX r.value).addCycles (charge s base mods { crossed := r.crossed })

/-- A store of v at a width: MemWrite(ea, w/8, v) (R183 to R186). -/
def storeAt (mode : AddrMode) (w : Width) (v : Word) (base : Nat) (mods : List Modifier) (s : State) : State :=
  let r := mode.resolve s
  (s.withBus (r.bus.writeAt w r.ea v)).addCycles (charge s base mods {})

/-- STA (R183). -/
def storeA (mode : AddrMode) (base : Nat) (mods : List Modifier) (s : State) : State :=
  storeAt mode s.wM s.getA base mods s

/-- STX (R184). -/
def storeX (mode : AddrMode) (base : Nat) (mods : List Modifier) (s : State) : State :=
  storeAt mode s.wX s.getX base mods s

/-- STY (R185). -/
def storeY (mode : AddrMode) (base : Nat) (mods : List Modifier) (s : State) : State :=
  storeAt mode s.wX s.getY base mods s

/-- STZ (R186). -/
def storeZero (mode : AddrMode) (base : Nat) (mods : List Modifier) (s : State) : State :=
  storeAt mode s.wM 0 base mods s

/-- A transfer of v into A at width wM, NZ at wM (R189, R190). -/
def transferToA (v : Word) (base : Nat) (mods : List Modifier) (s : State) : State :=
  ((s.setA v).setNZ s.wM v).addCycles (charge s base mods {})

/-- A transfer of v into X at width wX, NZ at wX (R187, R192, R193). -/
def transferToX (v : Word) (base : Nat) (mods : List Modifier) (s : State) : State :=
  ((s.setX v).setNZ s.wX v).addCycles (charge s base mods {})

/-- A transfer of v into Y at width wX, NZ at wX (R188, R191). -/
def transferToY (v : Word) (base : Nat) (mods : List Modifier) (s : State) : State :=
  ((s.setY v).setNZ s.wX v).addCycles (charge s base mods {})

/-- All 16 bits of A written, NZ from 16 bits, whatever P.M is (R196, R198). -/
def transferToWholeA (v : Word) (base : Nat) (mods : List Modifier) (s : State) : State :=
  (({ s with a := v } : State).setNZ .w16 v).addCycles (charge s base mods {})

/-- D written, NZ from 16 bits (R195). -/
def transferToD (v : Word) (base : Nat) (mods : List Modifier) (s : State) : State :=
  (({ s with d := v } : State).setNZ .w16 v).addCycles (charge s base mods {})

/-- S written, no flag, page 1 forced in emulation mode (R194, R197). -/
def transferToStack (v : Word) (base : Nat) (mods : List Modifier) (s : State) : State :=
  (s.transferToS v).addCycles (charge s base mods {})

/-- XBA: the bytes of A exchanged, NZ from the new low byte (R199). -/
def exchangeA (base : Nat) (mods : List Modifier) (s : State) : State :=
  let v := mkWord (loByte s.a) (hiByte s.a)
  (({ s with a := v } : State).setNZ .w8 v).addCycles (charge s base mods {})

/-- One byte of a block move, X and Y moved on by delta; PC goes back to the opcode until the count in A has passed zero
(R200, R201). -/
def blockMove (dst src : Byte) (delta : Word) (base : Nat) (mods : List Modifier) (s : State) : State :=
  let r := s.bus.read (mkAddr src s.getX)
  let s1 := ((s.withBus (r.2.write (mkAddr dst s.getY) r.1)).setX (s.getX + delta)).setY (s.getY + delta)
  let count := s.a - 1
  ({ s1 with
    dbr := dst
    a := count
    pc := if count = 0xFFFF then s.pc else s.pc - 3 } : State).addCycles (charge s base mods {})

/-- 0xA1 LDA ($nn,X) (R180, R146). -/
def execLdaDpIndX (off : Byte) (s : State) : Answer := .next (loadA (.mem (.dpIndX off)) 6 [.m1, .dl] s)

/-- 0xA3 LDA $nn,S (R180, R156). -/
def execLdaSr (off : Byte) (s : State) : Answer := .next (loadA (.mem (.sr off)) 4 [.m1] s)

/-- 0xA5 LDA $nn (R180, R142). -/
def execLdaDp (off : Byte) (s : State) : Answer := .next (loadA (.mem (.dp off)) 3 [.m1, .dl] s)

/-- 0xA7 LDA [$nn] (R180, R149). -/
def execLdaDpIndL (off : Byte) (s : State) : Answer := .next (loadA (.mem (.dpIndL off)) 6 [.m1, .dl] s)

/-- 0xA9 LDA #$nn / #$nnnn (R180, R141). -/
def execLdaImm (v : Imm) (s : State) : Answer := .next (loadA (.imm v) 2 [.m1] s)

/-- 0xAD LDA $nnnn (R180, R151). -/
def execLdaAbs (addr : Word) (s : State) : Answer := .next (loadA (.mem (.abs addr)) 4 [.m1] s)

/-- 0xAF LDA $nnnnnn (R180, R154). -/
def execLdaLong (addr : Addr) (s : State) : Answer := .next (loadA (.mem (.long addr)) 5 [.m1] s)

/-- 0xB1 LDA ($nn),Y (R180, R147). -/
def execLdaDpIndY (off : Byte) (s : State) : Answer := .next (loadA (.mem (.dpIndY off)) 5 [.m1, .dl, .px] s)

/-- 0xB2 LDA ($nn) (R180, R145). -/
def execLdaDpInd (off : Byte) (s : State) : Answer := .next (loadA (.mem (.dpInd off)) 5 [.m1, .dl] s)

/-- 0xB3 LDA ($nn,S),Y (R180, R157). -/
def execLdaSrIndY (off : Byte) (s : State) : Answer := .next (loadA (.mem (.srIndY off)) 7 [.m1] s)

/-- 0xB5 LDA $nn,X (R180, R143). -/
def execLdaDpX (off : Byte) (s : State) : Answer := .next (loadA (.mem (.dpX off)) 4 [.m1, .dl] s)

/-- 0xB7 LDA [$nn],Y (R180, R150). -/
def execLdaDpIndLY (off : Byte) (s : State) : Answer := .next (loadA (.mem (.dpIndLY off)) 6 [.m1, .dl] s)

/-- 0xB9 LDA $nnnn,Y (R180, R153). -/
def execLdaAbsY (addr : Word) (s : State) : Answer := .next (loadA (.mem (.absY addr)) 4 [.m1, .px] s)

/-- 0xBD LDA $nnnn,X (R180, R152). -/
def execLdaAbsX (addr : Word) (s : State) : Answer := .next (loadA (.mem (.absX addr)) 4 [.m1, .px] s)

/-- 0xBF LDA $nnnnnn,X (R180, R155). -/
def execLdaLongX (addr : Addr) (s : State) : Answer := .next (loadA (.mem (.longX addr)) 5 [.m1] s)

/-- 0xA2 LDX #$nn / #$nnnn (R181, R141). -/
def execLdxImm (v : Imm) (s : State) : Answer := .next (loadX (.imm v) 2 [.x1] s)

/-- 0xA6 LDX $nn (R181, R142). -/
def execLdxDp (off : Byte) (s : State) : Answer := .next (loadX (.mem (.dp off)) 3 [.x1, .dl] s)

/-- 0xAE LDX $nnnn (R181, R151). -/
def execLdxAbs (addr : Word) (s : State) : Answer := .next (loadX (.mem (.abs addr)) 4 [.x1] s)

/-- 0xB6 LDX $nn,Y (R181, R144). -/
def execLdxDpY (off : Byte) (s : State) : Answer := .next (loadX (.mem (.dpY off)) 4 [.x1, .dl] s)

/-- 0xBE LDX $nnnn,Y (R181, R153). -/
def execLdxAbsY (addr : Word) (s : State) : Answer := .next (loadX (.mem (.absY addr)) 4 [.x1, .px] s)

/-- 0xA0 LDY #$nn / #$nnnn (R182, R141). -/
def execLdyImm (v : Imm) (s : State) : Answer := .next (loadY (.imm v) 2 [.x1] s)

/-- 0xA4 LDY $nn (R182, R142). -/
def execLdyDp (off : Byte) (s : State) : Answer := .next (loadY (.mem (.dp off)) 3 [.x1, .dl] s)

/-- 0xAC LDY $nnnn (R182, R151). -/
def execLdyAbs (addr : Word) (s : State) : Answer := .next (loadY (.mem (.abs addr)) 4 [.x1] s)

/-- 0xB4 LDY $nn,X (R182, R143). -/
def execLdyDpX (off : Byte) (s : State) : Answer := .next (loadY (.mem (.dpX off)) 4 [.x1, .dl] s)

/-- 0xBC LDY $nnnn,X (R182, R152). -/
def execLdyAbsX (addr : Word) (s : State) : Answer := .next (loadY (.mem (.absX addr)) 4 [.x1, .px] s)

/-- 0x81 STA ($nn,X) (R183, R146). -/
def execStaDpIndX (off : Byte) (s : State) : Answer := .next (storeA (.dpIndX off) 6 [.m1, .dl] s)

/-- 0x83 STA $nn,S (R183, R156). -/
def execStaSr (off : Byte) (s : State) : Answer := .next (storeA (.sr off) 4 [.m1] s)

/-- 0x85 STA $nn (R183, R142). -/
def execStaDp (off : Byte) (s : State) : Answer := .next (storeA (.dp off) 3 [.m1, .dl] s)

/-- 0x87 STA [$nn] (R183, R149). -/
def execStaDpIndL (off : Byte) (s : State) : Answer := .next (storeA (.dpIndL off) 6 [.m1, .dl] s)

/-- 0x8D STA $nnnn (R183, R151). -/
def execStaAbs (addr : Word) (s : State) : Answer := .next (storeA (.abs addr) 4 [.m1] s)

/-- 0x8F STA $nnnnnn (R183, R154). -/
def execStaLong (addr : Addr) (s : State) : Answer := .next (storeA (.long addr) 5 [.m1] s)

/-- 0x91 STA ($nn),Y (R183, R147). -/
def execStaDpIndY (off : Byte) (s : State) : Answer := .next (storeA (.dpIndY off) 6 [.m1, .dl] s)

/-- 0x92 STA ($nn) (R183, R145). -/
def execStaDpInd (off : Byte) (s : State) : Answer := .next (storeA (.dpInd off) 5 [.m1, .dl] s)

/-- 0x93 STA ($nn,S),Y (R183, R157). -/
def execStaSrIndY (off : Byte) (s : State) : Answer := .next (storeA (.srIndY off) 7 [.m1] s)

/-- 0x95 STA $nn,X (R183, R143). -/
def execStaDpX (off : Byte) (s : State) : Answer := .next (storeA (.dpX off) 4 [.m1, .dl] s)

/-- 0x97 STA [$nn],Y (R183, R150). -/
def execStaDpIndLY (off : Byte) (s : State) : Answer := .next (storeA (.dpIndLY off) 6 [.m1, .dl] s)

/-- 0x99 STA $nnnn,Y (R183, R153). -/
def execStaAbsY (addr : Word) (s : State) : Answer := .next (storeA (.absY addr) 5 [.m1] s)

/-- 0x9D STA $nnnn,X (R183, R152). -/
def execStaAbsX (addr : Word) (s : State) : Answer := .next (storeA (.absX addr) 5 [.m1] s)

/-- 0x9F STA $nnnnnn,X (R183, R155). -/
def execStaLongX (addr : Addr) (s : State) : Answer := .next (storeA (.longX addr) 5 [.m1] s)

/-- 0x86 STX $nn (R184, R142). -/
def execStxDp (off : Byte) (s : State) : Answer := .next (storeX (.dp off) 3 [.x1, .dl] s)

/-- 0x8E STX $nnnn (R184, R151). -/
def execStxAbs (addr : Word) (s : State) : Answer := .next (storeX (.abs addr) 4 [.x1] s)

/-- 0x96 STX $nn,Y (R184, R144). -/
def execStxDpY (off : Byte) (s : State) : Answer := .next (storeX (.dpY off) 4 [.x1, .dl] s)

/-- 0x84 STY $nn (R185, R142). -/
def execStyDp (off : Byte) (s : State) : Answer := .next (storeY (.dp off) 3 [.x1, .dl] s)

/-- 0x8C STY $nnnn (R185, R151). -/
def execStyAbs (addr : Word) (s : State) : Answer := .next (storeY (.abs addr) 4 [.x1] s)

/-- 0x94 STY $nn,X (R185, R143). -/
def execStyDpX (off : Byte) (s : State) : Answer := .next (storeY (.dpX off) 4 [.x1, .dl] s)

/-- 0x64 STZ $nn (R186, R142). -/
def execStzDp (off : Byte) (s : State) : Answer := .next (storeZero (.dp off) 3 [.m1, .dl] s)

/-- 0x74 STZ $nn,X (R186, R143). -/
def execStzDpX (off : Byte) (s : State) : Answer := .next (storeZero (.dpX off) 4 [.m1, .dl] s)

/-- 0x9C STZ $nnnn (R186, R151). -/
def execStzAbs (addr : Word) (s : State) : Answer := .next (storeZero (.abs addr) 4 [.m1] s)

/-- 0x9E STZ $nnnn,X (R186, R152). -/
def execStzAbsX (addr : Word) (s : State) : Answer := .next (storeZero (.absX addr) 5 [.m1] s)

/-- 0xAA TAX (R187, R159). -/
def execTax (s : State) : Answer := .next (transferToX s.a 2 [] s)

/-- 0xA8 TAY (R188, R159). -/
def execTay (s : State) : Answer := .next (transferToY s.a 2 [] s)

/-- 0x8A TXA (R189, R159). -/
def execTxa (s : State) : Answer := .next (transferToA s.x 2 [] s)

/-- 0x98 TYA (R190, R159). -/
def execTya (s : State) : Answer := .next (transferToA s.y 2 [] s)

/-- 0x9B TXY (R191, R159). -/
def execTxy (s : State) : Answer := .next (transferToY s.x 2 [] s)

/-- 0xBB TYX (R192, R159). -/
def execTyx (s : State) : Answer := .next (transferToX s.y 2 [] s)

/-- 0xBA TSX (R193, R159). -/
def execTsx (s : State) : Answer := .next (transferToX s.sp 2 [] s)

/-- 0x9A TXS (R194, R159). -/
def execTxs (s : State) : Answer := .next (transferToStack s.x 2 [] s)

/-- 0x5B TCD (R195, R159). -/
def execTcd (s : State) : Answer := .next (transferToD s.a 2 [] s)

/-- 0x7B TDC (R196, R159). -/
def execTdc (s : State) : Answer := .next (transferToWholeA s.d 2 [] s)

/-- 0x1B TCS (R197, R159). -/
def execTcs (s : State) : Answer := .next (transferToStack s.a 2 [] s)

/-- 0x3B TSC (R198, R159). -/
def execTsc (s : State) : Answer := .next (transferToWholeA s.sp 2 [] s)

/-- 0xEB XBA (R199, R159). -/
def execXba (s : State) : Answer := .next (exchangeA 3 [] s)

/-- 0x54 MVN $ss,$dd (R200, R167). -/
def execMvn (dst : Byte) (src : Byte) (s : State) : Answer := .next (blockMove dst src 1 7 [.mv] s)

/-- 0x44 MVP $ss,$dd (R201, R167). -/
def execMvp (dst : Byte) (src : Byte) (s : State) : Answer := .next (blockMove dst src (-1) 7 [.mv] s)

end Sys2Proof.Machine
end

