-- ==== Sys2Proof/Machine/Stack.lean ====
section
/-! DEFINITION. Pushes and pulls (46_stack.md): the shared operations, then one meaning per row of the opcode table,
with the base cycles and modifiers of its row. -/

namespace Sys2Proof.Machine

/-- Push v at a width (R294 to R296). -/
def State.pushAt (s : State) (w : Width) (v : Word) : State :=
  match w with
  | .w8 => s.push8 (loByte v)
  | .w16 => s.push16 v

/-- Pull a value of a width (R301 to R303). -/
def State.popAt (s : State) (w : Width) : Word × State :=
  match w with
  | .w8 => (zextWord s.pop8.1, s.pop8.2)
  | .w16 => s.pop16

/-- A push of a register's value at a width (R294 to R296). -/
def pushReg (w : Width) (v : Word) (base : Nat) (mods : List Modifier) (s : State) : State :=
  (s.pushAt w v).addCycles (charge s base mods {})

/-- A push of one byte (R297, R298, R300). -/
def pushByte (v : Byte) (base : Nat) (mods : List Modifier) (s : State) : State :=
  (s.push8 v).addCycles (charge s base mods {})

/-- A push of 16 bits whatever the width flags are (R299, R307, R309). -/
def pushWord (v : Word) (base : Nat) (mods : List Modifier) (s : State) : State :=
  (s.push16 v).addCycles (charge s base mods {})

/-- PEI: push the pointer at a direct page location (R308). -/
def pushPointer (off : Byte) (base : Nat) (mods : List Modifier) (s : State) : State :=
  let ptr := s.bus.readBank2 0x00 (s.direct off)
  ((s.withBus ptr.2).push16 ptr.1).addCycles (charge s base mods {})

/-- PLA (R301). -/
def pullA (base : Nat) (mods : List Modifier) (s : State) : State :=
  let r := s.popAt s.wM
  ((r.2.setA r.1).setNZ s.wM r.1).addCycles (charge s base mods {})

/-- PLX (R302). -/
def pullX (base : Nat) (mods : List Modifier) (s : State) : State :=
  let r := s.popAt s.wX
  ((r.2.setX r.1).setNZ s.wX r.1).addCycles (charge s base mods {})

/-- PLY (R303). -/
def pullY (base : Nat) (mods : List Modifier) (s : State) : State :=
  let r := s.popAt s.wX
  ((r.2.setY r.1).setNZ s.wX r.1).addCycles (charge s base mods {})

/-- PLP (R304). -/
def pullP (base : Nat) (mods : List Modifier) (s : State) : State :=
  let r := s.pop8
  (r.2.setP r.1).addCycles (charge s base mods {})

/-- PLB (R305). -/
def pullB (base : Nat) (mods : List Modifier) (s : State) : State :=
  let r := s.pop8
  (({ r.2 with dbr := r.1 } : State).setNZ .w8 (zextWord r.1)).addCycles (charge s base mods {})

/-- PLD (R306). -/
def pullD (base : Nat) (mods : List Modifier) (s : State) : State :=
  let r := s.pop16
  (({ r.2 with d := r.1 } : State).setNZ .w16 r.1).addCycles (charge s base mods {})

/-- 0x48 PHA (R294, R159). -/
def execPha (s : State) : Answer := .next (pushReg s.wM s.a 3 [.m1] s)

/-- 0xDA PHX (R295, R159). -/
def execPhx (s : State) : Answer := .next (pushReg s.wX s.x 3 [.x1] s)

/-- 0x5A PHY (R296, R159). -/
def execPhy (s : State) : Answer := .next (pushReg s.wX s.y 3 [.x1] s)

/-- 0x08 PHP (R297, R159). -/
def execPhp (s : State) : Answer := .next (pushByte s.p 3 [] s)

/-- 0x8B PHB (R298, R159). -/
def execPhb (s : State) : Answer := .next (pushByte s.dbr 3 [] s)

/-- 0x0B PHD (R299, R159). -/
def execPhd (s : State) : Answer := .next (pushWord s.d 4 [] s)

/-- 0x4B PHK (R300, R159). -/
def execPhk (s : State) : Answer := .next (pushByte s.pbr 3 [] s)

/-- 0x68 PLA (R301, R159). -/
def execPla (s : State) : Answer := .next (pullA 4 [.m1] s)

/-- 0xFA PLX (R302, R159). -/
def execPlx (s : State) : Answer := .next (pullX 4 [.x1] s)

/-- 0x7A PLY (R303, R159). -/
def execPly (s : State) : Answer := .next (pullY 4 [.x1] s)

/-- 0x28 PLP (R304, R159). -/
def execPlp (s : State) : Answer := .next (pullP 4 [] s)

/-- 0xAB PLB (R305, R159). -/
def execPlb (s : State) : Answer := .next (pullB 4 [] s)

/-- 0x2B PLD (R306, R159). -/
def execPld (s : State) : Answer := .next (pullD 5 [] s)

/-- 0xF4 PEA $nnnn (R307, R141). -/
def execPea (v : Word) (s : State) : Answer := .next (pushWord v 5 [] s)

/-- 0xD4 PEI ($nn) (R308, R145). -/
def execPei (off : Byte) (s : State) : Answer := .next (pushPointer off 6 [.dl] s)

/-- 0x62 PER label (R309, R161). -/
def execPer (off : Word) (s : State) : Answer := .next (pushWord (s.relLongTarget off) 6 [] s)

end Sys2Proof.Machine
end

