-- ==== Sys2Proof/Machine/System.lean ====
section
/-! DEFINITION. Flag, mode and system instructions (47_status_system.md): the shared operations, then one meaning per
row of the opcode table, with the base cycles and modifiers of its row. -/

namespace Sys2Proof.Machine

/-- A single-flag instruction (R310 to R316). -/
def writeFlag (f : Flag) (value : Bool) (base : Nat) (mods : List Modifier) (s : State) : State :=
  (s.putFlag f value).addCycles (charge s base mods {})

/-- The whole status word written through setP (REP R317, SEP R318). -/
def writeStatus (v : Byte) (base : Nat) (mods : List Modifier) (s : State) : State :=
  (s.setP v).addCycles (charge s base mods {})

/-- What entering emulation mode forces: M and X set, X and Y without their high bytes, S in page 1 (R319). -/
def State.enterEmulation (s : State) : State :=
  { s with
    p := setFlag (setFlag s.p .m true) .x true
    x := zextWord (loByte s.x)
    y := zextWord (loByte s.y)
    sp := mkWord 0x01 (loByte s.sp) }

/-- XCE: C and E exchanged; a change of E from 0 to 1 enters emulation mode (R319). -/
def exchangeCE (base : Nat) (mods : List Modifier) (s : State) : State :=
  let s1 : State := { s.putFlag .c s.e with e := flag s.p .c }
  (if !s.e && flag s.p .c then s1.enterEmulation else s1).addCycles (charge s base mods {})

/-- NOP and WDM: nothing beyond the fetches (R320, R321). -/
def doNothing (base : Nat) (mods : List Modifier) (s : State) : State :=
  s.addCycles (charge s base mods {})

/-- WAI (R322). -/
def beginWaiting (base : Nat) (mods : List Modifier) (s : State) : State :=
  ({ s with waiting := true } : State).addCycles (charge s base mods {})

/-- STP (R323). -/
def stopProcessor (base : Nat) (mods : List Modifier) (s : State) : State :=
  ({ s with stopped := true } : State).addCycles (charge s base mods {})

/-- 0x18 CLC (R310, R159). -/
def execClc (s : State) : Answer := .next (writeFlag .c false 2 [] s)

/-- 0x38 SEC (R311, R159). -/
def execSec (s : State) : Answer := .next (writeFlag .c true 2 [] s)

/-- 0x58 CLI (R312, R159). -/
def execCli (s : State) : Answer := .next (writeFlag .i false 2 [] s)

/-- 0x78 SEI (R313, R159). -/
def execSei (s : State) : Answer := .next (writeFlag .i true 2 [] s)

/-- 0xD8 CLD (R314, R159). -/
def execCld (s : State) : Answer := .next (writeFlag .d false 2 [] s)

/-- 0xF8 SED (R315, R159). -/
def execSed (s : State) : Answer := .next (writeFlag .d true 2 [] s)

/-- 0xB8 CLV (R316, R159). -/
def execClv (s : State) : Answer := .next (writeFlag .v false 2 [] s)

/-- 0xC2 REP #$nn (R317, R141). -/
def execRep (v : Byte) (s : State) : Answer := .next (writeStatus (s.p &&& ~~~v) 3 [] s)

/-- 0xE2 SEP #$nn (R318, R141). -/
def execSep (v : Byte) (s : State) : Answer := .next (writeStatus (s.p ||| v) 3 [] s)

/-- 0xFB XCE (R319, R159). -/
def execXce (s : State) : Answer := .next (exchangeCE 2 [] s)

/-- 0xEA NOP (R320, R159). -/
def execNop (s : State) : Answer := .next (doNothing 2 [] s)

/-- 0x42 WDM #$nn (R321, R141). -/
def execWdm (_sig : Byte) (s : State) : Answer := .next (doNothing 2 [] s)

/-- 0xCB WAI (R322, R159). -/
def execWai (s : State) : Answer := .next (beginWaiting 3 [] s)

/-- 0xDB STP (R323, R159). -/
def execStp (s : State) : Answer := .next (stopProcessor 3 [] s)

end Sys2Proof.Machine
end

