-- ==== Sys2Proof/Machine/Dispatch.lean ====
section
/-! DEFINITION. One arm per instruction: each calls its meaning (40_dispatch.md R121). -/

namespace Sys2Proof.Machine

def exec (i : Instr) (s : State) : Host.Outcome State Fault Refusal :=
  match i with
  | .ldaDpIndX off => Sys2Proof.Machine.execLdaDpIndX off s
  | .ldaSr off => Sys2Proof.Machine.execLdaSr off s
  | .ldaDp off => Sys2Proof.Machine.execLdaDp off s
  | .ldaDpIndL off => Sys2Proof.Machine.execLdaDpIndL off s
  | .ldaImm v => Sys2Proof.Machine.execLdaImm v s
  | .ldaAbs addr => Sys2Proof.Machine.execLdaAbs addr s
  | .ldaLong addr => Sys2Proof.Machine.execLdaLong addr s
  | .ldaDpIndY off => Sys2Proof.Machine.execLdaDpIndY off s
  | .ldaDpInd off => Sys2Proof.Machine.execLdaDpInd off s
  | .ldaSrIndY off => Sys2Proof.Machine.execLdaSrIndY off s
  | .ldaDpX off => Sys2Proof.Machine.execLdaDpX off s
  | .ldaDpIndLY off => Sys2Proof.Machine.execLdaDpIndLY off s
  | .ldaAbsY addr => Sys2Proof.Machine.execLdaAbsY addr s
  | .ldaAbsX addr => Sys2Proof.Machine.execLdaAbsX addr s
  | .ldaLongX addr => Sys2Proof.Machine.execLdaLongX addr s
  | .ldxImm v => Sys2Proof.Machine.execLdxImm v s
  | .ldxDp off => Sys2Proof.Machine.execLdxDp off s
  | .ldxAbs addr => Sys2Proof.Machine.execLdxAbs addr s
  | .ldxDpY off => Sys2Proof.Machine.execLdxDpY off s
  | .ldxAbsY addr => Sys2Proof.Machine.execLdxAbsY addr s
  | .ldyImm v => Sys2Proof.Machine.execLdyImm v s
  | .ldyDp off => Sys2Proof.Machine.execLdyDp off s
  | .ldyAbs addr => Sys2Proof.Machine.execLdyAbs addr s
  | .ldyDpX off => Sys2Proof.Machine.execLdyDpX off s
  | .ldyAbsX addr => Sys2Proof.Machine.execLdyAbsX addr s
  | .staDpIndX off => Sys2Proof.Machine.execStaDpIndX off s
  | .staSr off => Sys2Proof.Machine.execStaSr off s
  | .staDp off => Sys2Proof.Machine.execStaDp off s
  | .staDpIndL off => Sys2Proof.Machine.execStaDpIndL off s
  | .staAbs addr => Sys2Proof.Machine.execStaAbs addr s
  | .staLong addr => Sys2Proof.Machine.execStaLong addr s
  | .staDpIndY off => Sys2Proof.Machine.execStaDpIndY off s
  | .staDpInd off => Sys2Proof.Machine.execStaDpInd off s
  | .staSrIndY off => Sys2Proof.Machine.execStaSrIndY off s
  | .staDpX off => Sys2Proof.Machine.execStaDpX off s
  | .staDpIndLY off => Sys2Proof.Machine.execStaDpIndLY off s
  | .staAbsY addr => Sys2Proof.Machine.execStaAbsY addr s
  | .staAbsX addr => Sys2Proof.Machine.execStaAbsX addr s
  | .staLongX addr => Sys2Proof.Machine.execStaLongX addr s
  | .stxDp off => Sys2Proof.Machine.execStxDp off s
  | .stxAbs addr => Sys2Proof.Machine.execStxAbs addr s
  | .stxDpY off => Sys2Proof.Machine.execStxDpY off s
  | .styDp off => Sys2Proof.Machine.execStyDp off s
  | .styAbs addr => Sys2Proof.Machine.execStyAbs addr s
  | .styDpX off => Sys2Proof.Machine.execStyDpX off s
  | .stzDp off => Sys2Proof.Machine.execStzDp off s
  | .stzDpX off => Sys2Proof.Machine.execStzDpX off s
  | .stzAbs addr => Sys2Proof.Machine.execStzAbs addr s
  | .stzAbsX addr => Sys2Proof.Machine.execStzAbsX addr s
  | .tax => Sys2Proof.Machine.execTax s
  | .tay => Sys2Proof.Machine.execTay s
  | .txa => Sys2Proof.Machine.execTxa s
  | .tya => Sys2Proof.Machine.execTya s
  | .txy => Sys2Proof.Machine.execTxy s
  | .tyx => Sys2Proof.Machine.execTyx s
  | .tsx => Sys2Proof.Machine.execTsx s
  | .txs => Sys2Proof.Machine.execTxs s
  | .tcd => Sys2Proof.Machine.execTcd s
  | .tdc => Sys2Proof.Machine.execTdc s
  | .tcs => Sys2Proof.Machine.execTcs s
  | .tsc => Sys2Proof.Machine.execTsc s
  | .xba => Sys2Proof.Machine.execXba s
  | .mvn dst src => Sys2Proof.Machine.execMvn dst src s
  | .mvp dst src => Sys2Proof.Machine.execMvp dst src s
  | .adcDpIndX off => Sys2Proof.Machine.execAdcDpIndX off s
  | .adcSr off => Sys2Proof.Machine.execAdcSr off s
  | .adcDp off => Sys2Proof.Machine.execAdcDp off s
  | .adcDpIndL off => Sys2Proof.Machine.execAdcDpIndL off s
  | .adcImm v => Sys2Proof.Machine.execAdcImm v s
  | .adcAbs addr => Sys2Proof.Machine.execAdcAbs addr s
  | .adcLong addr => Sys2Proof.Machine.execAdcLong addr s
  | .adcDpIndY off => Sys2Proof.Machine.execAdcDpIndY off s
  | .adcDpInd off => Sys2Proof.Machine.execAdcDpInd off s
  | .adcSrIndY off => Sys2Proof.Machine.execAdcSrIndY off s
  | .adcDpX off => Sys2Proof.Machine.execAdcDpX off s
  | .adcDpIndLY off => Sys2Proof.Machine.execAdcDpIndLY off s
  | .adcAbsY addr => Sys2Proof.Machine.execAdcAbsY addr s
  | .adcAbsX addr => Sys2Proof.Machine.execAdcAbsX addr s
  | .adcLongX addr => Sys2Proof.Machine.execAdcLongX addr s
  | .sbcDpIndX off => Sys2Proof.Machine.execSbcDpIndX off s
  | .sbcSr off => Sys2Proof.Machine.execSbcSr off s
  | .sbcDp off => Sys2Proof.Machine.execSbcDp off s
  | .sbcDpIndL off => Sys2Proof.Machine.execSbcDpIndL off s
  | .sbcImm v => Sys2Proof.Machine.execSbcImm v s
  | .sbcAbs addr => Sys2Proof.Machine.execSbcAbs addr s
  | .sbcLong addr => Sys2Proof.Machine.execSbcLong addr s
  | .sbcDpIndY off => Sys2Proof.Machine.execSbcDpIndY off s
  | .sbcDpInd off => Sys2Proof.Machine.execSbcDpInd off s
  | .sbcSrIndY off => Sys2Proof.Machine.execSbcSrIndY off s
  | .sbcDpX off => Sys2Proof.Machine.execSbcDpX off s
  | .sbcDpIndLY off => Sys2Proof.Machine.execSbcDpIndLY off s
  | .sbcAbsY addr => Sys2Proof.Machine.execSbcAbsY addr s
  | .sbcAbsX addr => Sys2Proof.Machine.execSbcAbsX addr s
  | .sbcLongX addr => Sys2Proof.Machine.execSbcLongX addr s
  | .andDpIndX off => Sys2Proof.Machine.execAndDpIndX off s
  | .andSr off => Sys2Proof.Machine.execAndSr off s
  | .andDp off => Sys2Proof.Machine.execAndDp off s
  | .andDpIndL off => Sys2Proof.Machine.execAndDpIndL off s
  | .andImm v => Sys2Proof.Machine.execAndImm v s
  | .andAbs addr => Sys2Proof.Machine.execAndAbs addr s
  | .andLong addr => Sys2Proof.Machine.execAndLong addr s
  | .andDpIndY off => Sys2Proof.Machine.execAndDpIndY off s
  | .andDpInd off => Sys2Proof.Machine.execAndDpInd off s
  | .andSrIndY off => Sys2Proof.Machine.execAndSrIndY off s
  | .andDpX off => Sys2Proof.Machine.execAndDpX off s
  | .andDpIndLY off => Sys2Proof.Machine.execAndDpIndLY off s
  | .andAbsY addr => Sys2Proof.Machine.execAndAbsY addr s
  | .andAbsX addr => Sys2Proof.Machine.execAndAbsX addr s
  | .andLongX addr => Sys2Proof.Machine.execAndLongX addr s
  | .oraDpIndX off => Sys2Proof.Machine.execOraDpIndX off s
  | .oraSr off => Sys2Proof.Machine.execOraSr off s
  | .oraDp off => Sys2Proof.Machine.execOraDp off s
  | .oraDpIndL off => Sys2Proof.Machine.execOraDpIndL off s
  | .oraImm v => Sys2Proof.Machine.execOraImm v s
  | .oraAbs addr => Sys2Proof.Machine.execOraAbs addr s
  | .oraLong addr => Sys2Proof.Machine.execOraLong addr s
  | .oraDpIndY off => Sys2Proof.Machine.execOraDpIndY off s
  | .oraDpInd off => Sys2Proof.Machine.execOraDpInd off s
  | .oraSrIndY off => Sys2Proof.Machine.execOraSrIndY off s
  | .oraDpX off => Sys2Proof.Machine.execOraDpX off s
  | .oraDpIndLY off => Sys2Proof.Machine.execOraDpIndLY off s
  | .oraAbsY addr => Sys2Proof.Machine.execOraAbsY addr s
  | .oraAbsX addr => Sys2Proof.Machine.execOraAbsX addr s
  | .oraLongX addr => Sys2Proof.Machine.execOraLongX addr s
  | .eorDpIndX off => Sys2Proof.Machine.execEorDpIndX off s
  | .eorSr off => Sys2Proof.Machine.execEorSr off s
  | .eorDp off => Sys2Proof.Machine.execEorDp off s
  | .eorDpIndL off => Sys2Proof.Machine.execEorDpIndL off s
  | .eorImm v => Sys2Proof.Machine.execEorImm v s
  | .eorAbs addr => Sys2Proof.Machine.execEorAbs addr s
  | .eorLong addr => Sys2Proof.Machine.execEorLong addr s
  | .eorDpIndY off => Sys2Proof.Machine.execEorDpIndY off s
  | .eorDpInd off => Sys2Proof.Machine.execEorDpInd off s
  | .eorSrIndY off => Sys2Proof.Machine.execEorSrIndY off s
  | .eorDpX off => Sys2Proof.Machine.execEorDpX off s
  | .eorDpIndLY off => Sys2Proof.Machine.execEorDpIndLY off s
  | .eorAbsY addr => Sys2Proof.Machine.execEorAbsY addr s
  | .eorAbsX addr => Sys2Proof.Machine.execEorAbsX addr s
  | .eorLongX addr => Sys2Proof.Machine.execEorLongX addr s
  | .cmpDpIndX off => Sys2Proof.Machine.execCmpDpIndX off s
  | .cmpSr off => Sys2Proof.Machine.execCmpSr off s
  | .cmpDp off => Sys2Proof.Machine.execCmpDp off s
  | .cmpDpIndL off => Sys2Proof.Machine.execCmpDpIndL off s
  | .cmpImm v => Sys2Proof.Machine.execCmpImm v s
  | .cmpAbs addr => Sys2Proof.Machine.execCmpAbs addr s
  | .cmpLong addr => Sys2Proof.Machine.execCmpLong addr s
  | .cmpDpIndY off => Sys2Proof.Machine.execCmpDpIndY off s
  | .cmpDpInd off => Sys2Proof.Machine.execCmpDpInd off s
  | .cmpSrIndY off => Sys2Proof.Machine.execCmpSrIndY off s
  | .cmpDpX off => Sys2Proof.Machine.execCmpDpX off s
  | .cmpDpIndLY off => Sys2Proof.Machine.execCmpDpIndLY off s
  | .cmpAbsY addr => Sys2Proof.Machine.execCmpAbsY addr s
  | .cmpAbsX addr => Sys2Proof.Machine.execCmpAbsX addr s
  | .cmpLongX addr => Sys2Proof.Machine.execCmpLongX addr s
  | .cpxImm v => Sys2Proof.Machine.execCpxImm v s
  | .cpxDp off => Sys2Proof.Machine.execCpxDp off s
  | .cpxAbs addr => Sys2Proof.Machine.execCpxAbs addr s
  | .cpyImm v => Sys2Proof.Machine.execCpyImm v s
  | .cpyDp off => Sys2Proof.Machine.execCpyDp off s
  | .cpyAbs addr => Sys2Proof.Machine.execCpyAbs addr s
  | .bitDp off => Sys2Proof.Machine.execBitDp off s
  | .bitAbs addr => Sys2Proof.Machine.execBitAbs addr s
  | .bitDpX off => Sys2Proof.Machine.execBitDpX off s
  | .bitAbsX addr => Sys2Proof.Machine.execBitAbsX addr s
  | .bitImm v => Sys2Proof.Machine.execBitImm v s
  | .incAcc => Sys2Proof.Machine.execIncAcc s
  | .incDp off => Sys2Proof.Machine.execIncDp off s
  | .incAbs addr => Sys2Proof.Machine.execIncAbs addr s
  | .incDpX off => Sys2Proof.Machine.execIncDpX off s
  | .incAbsX addr => Sys2Proof.Machine.execIncAbsX addr s
  | .decAcc => Sys2Proof.Machine.execDecAcc s
  | .decDp off => Sys2Proof.Machine.execDecDp off s
  | .decAbs addr => Sys2Proof.Machine.execDecAbs addr s
  | .decDpX off => Sys2Proof.Machine.execDecDpX off s
  | .decAbsX addr => Sys2Proof.Machine.execDecAbsX addr s
  | .inx => Sys2Proof.Machine.execInx s
  | .iny => Sys2Proof.Machine.execIny s
  | .dex => Sys2Proof.Machine.execDex s
  | .dey => Sys2Proof.Machine.execDey s
  | .aslDp off => Sys2Proof.Machine.execAslDp off s
  | .aslAcc => Sys2Proof.Machine.execAslAcc s
  | .aslAbs addr => Sys2Proof.Machine.execAslAbs addr s
  | .aslDpX off => Sys2Proof.Machine.execAslDpX off s
  | .aslAbsX addr => Sys2Proof.Machine.execAslAbsX addr s
  | .lsrDp off => Sys2Proof.Machine.execLsrDp off s
  | .lsrAcc => Sys2Proof.Machine.execLsrAcc s
  | .lsrAbs addr => Sys2Proof.Machine.execLsrAbs addr s
  | .lsrDpX off => Sys2Proof.Machine.execLsrDpX off s
  | .lsrAbsX addr => Sys2Proof.Machine.execLsrAbsX addr s
  | .rolDp off => Sys2Proof.Machine.execRolDp off s
  | .rolAcc => Sys2Proof.Machine.execRolAcc s
  | .rolAbs addr => Sys2Proof.Machine.execRolAbs addr s
  | .rolDpX off => Sys2Proof.Machine.execRolDpX off s
  | .rolAbsX addr => Sys2Proof.Machine.execRolAbsX addr s
  | .rorDp off => Sys2Proof.Machine.execRorDp off s
  | .rorAcc => Sys2Proof.Machine.execRorAcc s
  | .rorAbs addr => Sys2Proof.Machine.execRorAbs addr s
  | .rorDpX off => Sys2Proof.Machine.execRorDpX off s
  | .rorAbsX addr => Sys2Proof.Machine.execRorAbsX addr s
  | .tsbDp off => Sys2Proof.Machine.execTsbDp off s
  | .tsbAbs addr => Sys2Proof.Machine.execTsbAbs addr s
  | .trbDp off => Sys2Proof.Machine.execTrbDp off s
  | .trbAbs addr => Sys2Proof.Machine.execTrbAbs addr s
  | .bpl off => Sys2Proof.Machine.execBpl off s
  | .bmi off => Sys2Proof.Machine.execBmi off s
  | .bvc off => Sys2Proof.Machine.execBvc off s
  | .bvs off => Sys2Proof.Machine.execBvs off s
  | .bcc off => Sys2Proof.Machine.execBcc off s
  | .bcs off => Sys2Proof.Machine.execBcs off s
  | .bne off => Sys2Proof.Machine.execBne off s
  | .beq off => Sys2Proof.Machine.execBeq off s
  | .bra off => Sys2Proof.Machine.execBra off s
  | .brl off => Sys2Proof.Machine.execBrl off s
  | .jmpAbs addr => Sys2Proof.Machine.execJmpAbs addr s
  | .jmpInd addr => Sys2Proof.Machine.execJmpInd addr s
  | .jmpIndX addr => Sys2Proof.Machine.execJmpIndX addr s
  | .jmlLong addr => Sys2Proof.Machine.execJmlLong addr s
  | .jmlInd addr => Sys2Proof.Machine.execJmlInd addr s
  | .jsrAbs addr => Sys2Proof.Machine.execJsrAbs addr s
  | .jsrIndX addr => Sys2Proof.Machine.execJsrIndX addr s
  | .jsl addr => Sys2Proof.Machine.execJsl addr s
  | .rts => Sys2Proof.Machine.execRts s
  | .rtl => Sys2Proof.Machine.execRtl s
  | .brk sig => Sys2Proof.Machine.execBrk sig s
  | .cop sig => Sys2Proof.Machine.execCop sig s
  | .rti => Sys2Proof.Machine.execRti s
  | .pha => Sys2Proof.Machine.execPha s
  | .phx => Sys2Proof.Machine.execPhx s
  | .phy => Sys2Proof.Machine.execPhy s
  | .php => Sys2Proof.Machine.execPhp s
  | .phb => Sys2Proof.Machine.execPhb s
  | .phd => Sys2Proof.Machine.execPhd s
  | .phk => Sys2Proof.Machine.execPhk s
  | .pla => Sys2Proof.Machine.execPla s
  | .plx => Sys2Proof.Machine.execPlx s
  | .ply => Sys2Proof.Machine.execPly s
  | .plp => Sys2Proof.Machine.execPlp s
  | .plb => Sys2Proof.Machine.execPlb s
  | .pld => Sys2Proof.Machine.execPld s
  | .pea v => Sys2Proof.Machine.execPea v s
  | .pei off => Sys2Proof.Machine.execPei off s
  | .per off => Sys2Proof.Machine.execPer off s
  | .clc => Sys2Proof.Machine.execClc s
  | .sec => Sys2Proof.Machine.execSec s
  | .cli => Sys2Proof.Machine.execCli s
  | .sei => Sys2Proof.Machine.execSei s
  | .cld => Sys2Proof.Machine.execCld s
  | .sed => Sys2Proof.Machine.execSed s
  | .clv => Sys2Proof.Machine.execClv s
  | .rep v => Sys2Proof.Machine.execRep v s
  | .sep v => Sys2Proof.Machine.execSep v s
  | .xce => Sys2Proof.Machine.execXce s
  | .nop => Sys2Proof.Machine.execNop s
  | .wdm sig => Sys2Proof.Machine.execWdm sig s
  | .wai => Sys2Proof.Machine.execWai s
  | .stp => Sys2Proof.Machine.execStp s

end Sys2Proof.Machine
end

