-- ==== Sys2Proof/WellFormed.lean ====
section
/-! DEFINITION. Well-formedness: an immediate has the width that P.M or P.X selects (30_encoding.md R102). Every other
field holds exactly the bits its format gives it (R101), so nothing else can be wrong with an instruction. -/

namespace Sys2Proof

/-- An immediate has one byte where its width flag is 1, and two where it is 0 (R102). -/
def Imm.fits (narrow : Bool) : Imm → Bool
  | .byte _ => narrow
  | .word _ => !narrow

/-- The immediates of an instruction fit the width flags P.M and P.X (R102): the immM rows by P.M, the immX rows by P.X. -/
def Instr.wellFormed (m x : Bool) : Instr → Bool
  | .oraImm v => v.fits m
  | .andImm v => v.fits m
  | .eorImm v => v.fits m
  | .adcImm v => v.fits m
  | .bitImm v => v.fits m
  | .ldaImm v => v.fits m
  | .cmpImm v => v.fits m
  | .sbcImm v => v.fits m
  | .ldyImm v => v.fits x
  | .ldxImm v => v.fits x
  | .cpyImm v => v.fits x
  | .cpxImm v => v.fits x
  | .brk _ | .oraDpIndX _ | .cop _ | .oraSr _ | .tsbDp _ | .oraDp _ | .aslDp _ | .oraDpIndL _ | .php | .aslAcc
  | .phd | .tsbAbs _ | .oraAbs _ | .aslAbs _ | .oraLong _ | .bpl _ | .oraDpIndY _ | .oraDpInd _ | .oraSrIndY _
  | .trbDp _ | .oraDpX _ | .aslDpX _ | .oraDpIndLY _ | .clc | .oraAbsY _ | .incAcc | .tcs | .trbAbs _ | .oraAbsX _
  | .aslAbsX _ | .oraLongX _ | .jsrAbs _ | .andDpIndX _ | .jsl _ | .andSr _ | .bitDp _ | .andDp _ | .rolDp _
  | .andDpIndL _ | .plp | .rolAcc | .pld | .bitAbs _ | .andAbs _ | .rolAbs _ | .andLong _ | .bmi _ | .andDpIndY _
  | .andDpInd _ | .andSrIndY _ | .bitDpX _ | .andDpX _ | .rolDpX _ | .andDpIndLY _ | .sec | .andAbsY _ | .decAcc
  | .tsc | .bitAbsX _ | .andAbsX _ | .rolAbsX _ | .andLongX _ | .rti | .eorDpIndX _ | .wdm _ | .eorSr _ | .mvp _ _
  | .eorDp _ | .lsrDp _ | .eorDpIndL _ | .pha | .lsrAcc | .phk | .jmpAbs _ | .eorAbs _ | .lsrAbs _ | .eorLong _
  | .bvc _ | .eorDpIndY _ | .eorDpInd _ | .eorSrIndY _ | .mvn _ _ | .eorDpX _ | .lsrDpX _ | .eorDpIndLY _ | .cli
  | .eorAbsY _ | .phy | .tcd | .jmlLong _ | .eorAbsX _ | .lsrAbsX _ | .eorLongX _ | .rts | .adcDpIndX _ | .per _
  | .adcSr _ | .stzDp _ | .adcDp _ | .rorDp _ | .adcDpIndL _ | .pla | .rorAcc | .rtl | .jmpInd _ | .adcAbs _
  | .rorAbs _ | .adcLong _ | .bvs _ | .adcDpIndY _ | .adcDpInd _ | .adcSrIndY _ | .stzDpX _ | .adcDpX _ | .rorDpX _
  | .adcDpIndLY _ | .sei | .adcAbsY _ | .ply | .tdc | .jmpIndX _ | .adcAbsX _ | .rorAbsX _ | .adcLongX _ | .bra _
  | .staDpIndX _ | .brl _ | .staSr _ | .styDp _ | .staDp _ | .stxDp _ | .staDpIndL _ | .dey | .txa | .phb
  | .styAbs _ | .staAbs _ | .stxAbs _ | .staLong _ | .bcc _ | .staDpIndY _ | .staDpInd _ | .staSrIndY _ | .styDpX _
  | .staDpX _ | .stxDpY _ | .staDpIndLY _ | .tya | .staAbsY _ | .txs | .txy | .stzAbs _ | .staAbsX _ | .stzAbsX _
  | .staLongX _ | .ldaDpIndX _ | .ldaSr _ | .ldyDp _ | .ldaDp _ | .ldxDp _ | .ldaDpIndL _ | .tay | .tax | .plb
  | .ldyAbs _ | .ldaAbs _ | .ldxAbs _ | .ldaLong _ | .bcs _ | .ldaDpIndY _ | .ldaDpInd _ | .ldaSrIndY _ | .ldyDpX _
  | .ldaDpX _ | .ldxDpY _ | .ldaDpIndLY _ | .clv | .ldaAbsY _ | .tsx | .tyx | .ldyAbsX _ | .ldaAbsX _ | .ldxAbsY _
  | .ldaLongX _ | .cmpDpIndX _ | .rep _ | .cmpSr _ | .cpyDp _ | .cmpDp _ | .decDp _ | .cmpDpIndL _ | .iny | .dex
  | .wai | .cpyAbs _ | .cmpAbs _ | .decAbs _ | .cmpLong _ | .bne _ | .cmpDpIndY _ | .cmpDpInd _ | .cmpSrIndY _
  | .pei _ | .cmpDpX _ | .decDpX _ | .cmpDpIndLY _ | .cld | .cmpAbsY _ | .phx | .stp | .jmlInd _ | .cmpAbsX _
  | .decAbsX _ | .cmpLongX _ | .sbcDpIndX _ | .sep _ | .sbcSr _ | .cpxDp _ | .sbcDp _ | .incDp _ | .sbcDpIndL _
  | .inx | .nop | .xba | .cpxAbs _ | .sbcAbs _ | .incAbs _ | .sbcLong _ | .beq _ | .sbcDpIndY _ | .sbcDpInd _
  | .sbcSrIndY _ | .pea _ | .sbcDpX _ | .incDpX _ | .sbcDpIndLY _ | .sed | .sbcAbsY _ | .plx | .xce | .jsrIndX _
  | .sbcAbsX _ | .incAbsX _ | .sbcLongX _ => true

end Sys2Proof
end

