-- ==== Sys2Proof/Decode.lean ====
section
/-! DEFINITION. The decoder, total on any bytes, and the encoder, both from the opcode map and the operand formats of
30_encoding.md (R101, R102, R105). Every opcode value is an instruction (R104), so the decoder rejects only a string of
bytes that ends before the instruction does. -/

namespace Sys2Proof

/-- The operand formats of R101, under the names of the opcode table. -/
inductive Format where
  | imp
  | acc
  | imm8
  | brk
  | wdm
  | immM
  | immX
  | imm16
  | dp
  | dpx
  | dpy
  | dpind
  | dpindx
  | dpindy
  | dpindl
  | dpindly
  | sr
  | srindy
  | rel8
  | rel16
  | abs
  | absx
  | absy
  | absind
  | absindx
  | absindl
  | pcabs
  | absl
  | abslx
  | pclong
  | blk
deriving DecidableEq, Repr

/-- The number of operand bytes of a format, by P.M and P.X for the immediates (R101, R102). -/
def Format.operandBytes (m x : Bool) : Format → Nat
  | .imp | .acc => 0
  | .imm8 | .brk | .wdm => 1
  | .immM => if m then 1 else 2
  | .immX => if x then 1 else 2
  | .imm16 => 2
  | .dp | .dpx | .dpy | .dpind | .dpindx | .dpindy | .dpindl | .dpindly => 1
  | .sr | .srindy => 1
  | .rel8 => 1
  | .rel16 => 2
  | .abs | .absx | .absy | .absind | .absindx | .absindl | .pcabs => 2
  | .absl | .abslx | .pclong => 3
  | .blk => 2

/-- The operand bytes that follow an opcode (absent ones are 0 and not looked at), and the width flags. -/
structure OperandBytes where
  m : Bool
  x : Bool
  b1 : Byte
  b2 : Byte
  b3 : Byte
deriving DecidableEq, Repr

/-- byte2 ++ byte1 (R101). -/
def OperandBytes.word (o : OperandBytes) : Word := mkWord o.b2 o.b1

/-- byte3 ++ byte2 ++ byte1, byte3 being the bank (R101). -/
def OperandBytes.long (o : OperandBytes) : Addr := mkLong o.b3 o.b2 o.b1

/-- The operand of an immM instruction (R101, R102). -/
def OperandBytes.immM (o : OperandBytes) : Imm := if o.m then .byte o.b1 else .word o.word

/-- The operand of an immX instruction (R101, R102). -/
def OperandBytes.immX (o : OperandBytes) : Imm := if o.x then .byte o.b1 else .word o.word

/-- Opcodes 0x00 to 0x0F by low nibble (R105): the format and the instruction. The last arm is nibble F. -/
def opcodeRow0 (o : OperandBytes) : Nat → Format × Instr
  | 0x0 => (.brk, .brk o.b1)
  | 0x1 => (.dpindx, .oraDpIndX o.b1)
  | 0x2 => (.brk, .cop o.b1)
  | 0x3 => (.sr, .oraSr o.b1)
  | 0x4 => (.dp, .tsbDp o.b1)
  | 0x5 => (.dp, .oraDp o.b1)
  | 0x6 => (.dp, .aslDp o.b1)
  | 0x7 => (.dpindl, .oraDpIndL o.b1)
  | 0x8 => (.imp, .php)
  | 0x9 => (.immM, .oraImm o.immM)
  | 0xA => (.acc, .aslAcc)
  | 0xB => (.imp, .phd)
  | 0xC => (.abs, .tsbAbs o.word)
  | 0xD => (.abs, .oraAbs o.word)
  | 0xE => (.abs, .aslAbs o.word)
  | _ => (.absl, .oraLong o.long)

/-- Opcodes 0x10 to 0x1F by low nibble (R105): the format and the instruction. The last arm is nibble F. -/
def opcodeRow1 (o : OperandBytes) : Nat → Format × Instr
  | 0x0 => (.rel8, .bpl o.b1)
  | 0x1 => (.dpindy, .oraDpIndY o.b1)
  | 0x2 => (.dpind, .oraDpInd o.b1)
  | 0x3 => (.srindy, .oraSrIndY o.b1)
  | 0x4 => (.dp, .trbDp o.b1)
  | 0x5 => (.dpx, .oraDpX o.b1)
  | 0x6 => (.dpx, .aslDpX o.b1)
  | 0x7 => (.dpindly, .oraDpIndLY o.b1)
  | 0x8 => (.imp, .clc)
  | 0x9 => (.absy, .oraAbsY o.word)
  | 0xA => (.acc, .incAcc)
  | 0xB => (.imp, .tcs)
  | 0xC => (.abs, .trbAbs o.word)
  | 0xD => (.absx, .oraAbsX o.word)
  | 0xE => (.absx, .aslAbsX o.word)
  | _ => (.abslx, .oraLongX o.long)

/-- Opcodes 0x20 to 0x2F by low nibble (R105): the format and the instruction. The last arm is nibble F. -/
def opcodeRow2 (o : OperandBytes) : Nat → Format × Instr
  | 0x0 => (.pcabs, .jsrAbs o.word)
  | 0x1 => (.dpindx, .andDpIndX o.b1)
  | 0x2 => (.pclong, .jsl o.long)
  | 0x3 => (.sr, .andSr o.b1)
  | 0x4 => (.dp, .bitDp o.b1)
  | 0x5 => (.dp, .andDp o.b1)
  | 0x6 => (.dp, .rolDp o.b1)
  | 0x7 => (.dpindl, .andDpIndL o.b1)
  | 0x8 => (.imp, .plp)
  | 0x9 => (.immM, .andImm o.immM)
  | 0xA => (.acc, .rolAcc)
  | 0xB => (.imp, .pld)
  | 0xC => (.abs, .bitAbs o.word)
  | 0xD => (.abs, .andAbs o.word)
  | 0xE => (.abs, .rolAbs o.word)
  | _ => (.absl, .andLong o.long)

/-- Opcodes 0x30 to 0x3F by low nibble (R105): the format and the instruction. The last arm is nibble F. -/
def opcodeRow3 (o : OperandBytes) : Nat → Format × Instr
  | 0x0 => (.rel8, .bmi o.b1)
  | 0x1 => (.dpindy, .andDpIndY o.b1)
  | 0x2 => (.dpind, .andDpInd o.b1)
  | 0x3 => (.srindy, .andSrIndY o.b1)
  | 0x4 => (.dpx, .bitDpX o.b1)
  | 0x5 => (.dpx, .andDpX o.b1)
  | 0x6 => (.dpx, .rolDpX o.b1)
  | 0x7 => (.dpindly, .andDpIndLY o.b1)
  | 0x8 => (.imp, .sec)
  | 0x9 => (.absy, .andAbsY o.word)
  | 0xA => (.acc, .decAcc)
  | 0xB => (.imp, .tsc)
  | 0xC => (.absx, .bitAbsX o.word)
  | 0xD => (.absx, .andAbsX o.word)
  | 0xE => (.absx, .rolAbsX o.word)
  | _ => (.abslx, .andLongX o.long)

/-- Opcodes 0x40 to 0x4F by low nibble (R105): the format and the instruction. The last arm is nibble F. -/
def opcodeRow4 (o : OperandBytes) : Nat → Format × Instr
  | 0x0 => (.imp, .rti)
  | 0x1 => (.dpindx, .eorDpIndX o.b1)
  | 0x2 => (.wdm, .wdm o.b1)
  | 0x3 => (.sr, .eorSr o.b1)
  | 0x4 => (.blk, .mvp o.b1 o.b2)
  | 0x5 => (.dp, .eorDp o.b1)
  | 0x6 => (.dp, .lsrDp o.b1)
  | 0x7 => (.dpindl, .eorDpIndL o.b1)
  | 0x8 => (.imp, .pha)
  | 0x9 => (.immM, .eorImm o.immM)
  | 0xA => (.acc, .lsrAcc)
  | 0xB => (.imp, .phk)
  | 0xC => (.pcabs, .jmpAbs o.word)
  | 0xD => (.abs, .eorAbs o.word)
  | 0xE => (.abs, .lsrAbs o.word)
  | _ => (.absl, .eorLong o.long)

/-- Opcodes 0x50 to 0x5F by low nibble (R105): the format and the instruction. The last arm is nibble F. -/
def opcodeRow5 (o : OperandBytes) : Nat → Format × Instr
  | 0x0 => (.rel8, .bvc o.b1)
  | 0x1 => (.dpindy, .eorDpIndY o.b1)
  | 0x2 => (.dpind, .eorDpInd o.b1)
  | 0x3 => (.srindy, .eorSrIndY o.b1)
  | 0x4 => (.blk, .mvn o.b1 o.b2)
  | 0x5 => (.dpx, .eorDpX o.b1)
  | 0x6 => (.dpx, .lsrDpX o.b1)
  | 0x7 => (.dpindly, .eorDpIndLY o.b1)
  | 0x8 => (.imp, .cli)
  | 0x9 => (.absy, .eorAbsY o.word)
  | 0xA => (.imp, .phy)
  | 0xB => (.imp, .tcd)
  | 0xC => (.pclong, .jmlLong o.long)
  | 0xD => (.absx, .eorAbsX o.word)
  | 0xE => (.absx, .lsrAbsX o.word)
  | _ => (.abslx, .eorLongX o.long)

/-- Opcodes 0x60 to 0x6F by low nibble (R105): the format and the instruction. The last arm is nibble F. -/
def opcodeRow6 (o : OperandBytes) : Nat → Format × Instr
  | 0x0 => (.imp, .rts)
  | 0x1 => (.dpindx, .adcDpIndX o.b1)
  | 0x2 => (.rel16, .per o.word)
  | 0x3 => (.sr, .adcSr o.b1)
  | 0x4 => (.dp, .stzDp o.b1)
  | 0x5 => (.dp, .adcDp o.b1)
  | 0x6 => (.dp, .rorDp o.b1)
  | 0x7 => (.dpindl, .adcDpIndL o.b1)
  | 0x8 => (.imp, .pla)
  | 0x9 => (.immM, .adcImm o.immM)
  | 0xA => (.acc, .rorAcc)
  | 0xB => (.imp, .rtl)
  | 0xC => (.absind, .jmpInd o.word)
  | 0xD => (.abs, .adcAbs o.word)
  | 0xE => (.abs, .rorAbs o.word)
  | _ => (.absl, .adcLong o.long)

/-- Opcodes 0x70 to 0x7F by low nibble (R105): the format and the instruction. The last arm is nibble F. -/
def opcodeRow7 (o : OperandBytes) : Nat → Format × Instr
  | 0x0 => (.rel8, .bvs o.b1)
  | 0x1 => (.dpindy, .adcDpIndY o.b1)
  | 0x2 => (.dpind, .adcDpInd o.b1)
  | 0x3 => (.srindy, .adcSrIndY o.b1)
  | 0x4 => (.dpx, .stzDpX o.b1)
  | 0x5 => (.dpx, .adcDpX o.b1)
  | 0x6 => (.dpx, .rorDpX o.b1)
  | 0x7 => (.dpindly, .adcDpIndLY o.b1)
  | 0x8 => (.imp, .sei)
  | 0x9 => (.absy, .adcAbsY o.word)
  | 0xA => (.imp, .ply)
  | 0xB => (.imp, .tdc)
  | 0xC => (.absindx, .jmpIndX o.word)
  | 0xD => (.absx, .adcAbsX o.word)
  | 0xE => (.absx, .rorAbsX o.word)
  | _ => (.abslx, .adcLongX o.long)

/-- Opcodes 0x80 to 0x8F by low nibble (R105): the format and the instruction. The last arm is nibble F. -/
def opcodeRow8 (o : OperandBytes) : Nat → Format × Instr
  | 0x0 => (.rel8, .bra o.b1)
  | 0x1 => (.dpindx, .staDpIndX o.b1)
  | 0x2 => (.rel16, .brl o.word)
  | 0x3 => (.sr, .staSr o.b1)
  | 0x4 => (.dp, .styDp o.b1)
  | 0x5 => (.dp, .staDp o.b1)
  | 0x6 => (.dp, .stxDp o.b1)
  | 0x7 => (.dpindl, .staDpIndL o.b1)
  | 0x8 => (.imp, .dey)
  | 0x9 => (.immM, .bitImm o.immM)
  | 0xA => (.imp, .txa)
  | 0xB => (.imp, .phb)
  | 0xC => (.abs, .styAbs o.word)
  | 0xD => (.abs, .staAbs o.word)
  | 0xE => (.abs, .stxAbs o.word)
  | _ => (.absl, .staLong o.long)

/-- Opcodes 0x90 to 0x9F by low nibble (R105): the format and the instruction. The last arm is nibble F. -/
def opcodeRow9 (o : OperandBytes) : Nat → Format × Instr
  | 0x0 => (.rel8, .bcc o.b1)
  | 0x1 => (.dpindy, .staDpIndY o.b1)
  | 0x2 => (.dpind, .staDpInd o.b1)
  | 0x3 => (.srindy, .staSrIndY o.b1)
  | 0x4 => (.dpx, .styDpX o.b1)
  | 0x5 => (.dpx, .staDpX o.b1)
  | 0x6 => (.dpy, .stxDpY o.b1)
  | 0x7 => (.dpindly, .staDpIndLY o.b1)
  | 0x8 => (.imp, .tya)
  | 0x9 => (.absy, .staAbsY o.word)
  | 0xA => (.imp, .txs)
  | 0xB => (.imp, .txy)
  | 0xC => (.abs, .stzAbs o.word)
  | 0xD => (.absx, .staAbsX o.word)
  | 0xE => (.absx, .stzAbsX o.word)
  | _ => (.abslx, .staLongX o.long)

/-- Opcodes 0xA0 to 0xAF by low nibble (R105): the format and the instruction. The last arm is nibble F. -/
def opcodeRowA (o : OperandBytes) : Nat → Format × Instr
  | 0x0 => (.immX, .ldyImm o.immX)
  | 0x1 => (.dpindx, .ldaDpIndX o.b1)
  | 0x2 => (.immX, .ldxImm o.immX)
  | 0x3 => (.sr, .ldaSr o.b1)
  | 0x4 => (.dp, .ldyDp o.b1)
  | 0x5 => (.dp, .ldaDp o.b1)
  | 0x6 => (.dp, .ldxDp o.b1)
  | 0x7 => (.dpindl, .ldaDpIndL o.b1)
  | 0x8 => (.imp, .tay)
  | 0x9 => (.immM, .ldaImm o.immM)
  | 0xA => (.imp, .tax)
  | 0xB => (.imp, .plb)
  | 0xC => (.abs, .ldyAbs o.word)
  | 0xD => (.abs, .ldaAbs o.word)
  | 0xE => (.abs, .ldxAbs o.word)
  | _ => (.absl, .ldaLong o.long)

/-- Opcodes 0xB0 to 0xBF by low nibble (R105): the format and the instruction. The last arm is nibble F. -/
def opcodeRowB (o : OperandBytes) : Nat → Format × Instr
  | 0x0 => (.rel8, .bcs o.b1)
  | 0x1 => (.dpindy, .ldaDpIndY o.b1)
  | 0x2 => (.dpind, .ldaDpInd o.b1)
  | 0x3 => (.srindy, .ldaSrIndY o.b1)
  | 0x4 => (.dpx, .ldyDpX o.b1)
  | 0x5 => (.dpx, .ldaDpX o.b1)
  | 0x6 => (.dpy, .ldxDpY o.b1)
  | 0x7 => (.dpindly, .ldaDpIndLY o.b1)
  | 0x8 => (.imp, .clv)
  | 0x9 => (.absy, .ldaAbsY o.word)
  | 0xA => (.imp, .tsx)
  | 0xB => (.imp, .tyx)
  | 0xC => (.absx, .ldyAbsX o.word)
  | 0xD => (.absx, .ldaAbsX o.word)
  | 0xE => (.absy, .ldxAbsY o.word)
  | _ => (.abslx, .ldaLongX o.long)

/-- Opcodes 0xC0 to 0xCF by low nibble (R105): the format and the instruction. The last arm is nibble F. -/
def opcodeRowC (o : OperandBytes) : Nat → Format × Instr
  | 0x0 => (.immX, .cpyImm o.immX)
  | 0x1 => (.dpindx, .cmpDpIndX o.b1)
  | 0x2 => (.imm8, .rep o.b1)
  | 0x3 => (.sr, .cmpSr o.b1)
  | 0x4 => (.dp, .cpyDp o.b1)
  | 0x5 => (.dp, .cmpDp o.b1)
  | 0x6 => (.dp, .decDp o.b1)
  | 0x7 => (.dpindl, .cmpDpIndL o.b1)
  | 0x8 => (.imp, .iny)
  | 0x9 => (.immM, .cmpImm o.immM)
  | 0xA => (.imp, .dex)
  | 0xB => (.imp, .wai)
  | 0xC => (.abs, .cpyAbs o.word)
  | 0xD => (.abs, .cmpAbs o.word)
  | 0xE => (.abs, .decAbs o.word)
  | _ => (.absl, .cmpLong o.long)

/-- Opcodes 0xD0 to 0xDF by low nibble (R105): the format and the instruction. The last arm is nibble F. -/
def opcodeRowD (o : OperandBytes) : Nat → Format × Instr
  | 0x0 => (.rel8, .bne o.b1)
  | 0x1 => (.dpindy, .cmpDpIndY o.b1)
  | 0x2 => (.dpind, .cmpDpInd o.b1)
  | 0x3 => (.srindy, .cmpSrIndY o.b1)
  | 0x4 => (.dpind, .pei o.b1)
  | 0x5 => (.dpx, .cmpDpX o.b1)
  | 0x6 => (.dpx, .decDpX o.b1)
  | 0x7 => (.dpindly, .cmpDpIndLY o.b1)
  | 0x8 => (.imp, .cld)
  | 0x9 => (.absy, .cmpAbsY o.word)
  | 0xA => (.imp, .phx)
  | 0xB => (.imp, .stp)
  | 0xC => (.absindl, .jmlInd o.word)
  | 0xD => (.absx, .cmpAbsX o.word)
  | 0xE => (.absx, .decAbsX o.word)
  | _ => (.abslx, .cmpLongX o.long)

/-- Opcodes 0xE0 to 0xEF by low nibble (R105): the format and the instruction. The last arm is nibble F. -/
def opcodeRowE (o : OperandBytes) : Nat → Format × Instr
  | 0x0 => (.immX, .cpxImm o.immX)
  | 0x1 => (.dpindx, .sbcDpIndX o.b1)
  | 0x2 => (.imm8, .sep o.b1)
  | 0x3 => (.sr, .sbcSr o.b1)
  | 0x4 => (.dp, .cpxDp o.b1)
  | 0x5 => (.dp, .sbcDp o.b1)
  | 0x6 => (.dp, .incDp o.b1)
  | 0x7 => (.dpindl, .sbcDpIndL o.b1)
  | 0x8 => (.imp, .inx)
  | 0x9 => (.immM, .sbcImm o.immM)
  | 0xA => (.imp, .nop)
  | 0xB => (.imp, .xba)
  | 0xC => (.abs, .cpxAbs o.word)
  | 0xD => (.abs, .sbcAbs o.word)
  | 0xE => (.abs, .incAbs o.word)
  | _ => (.absl, .sbcLong o.long)

/-- Opcodes 0xF0 to 0xFF by low nibble (R105): the format and the instruction. The last arm is nibble F. -/
def opcodeRowF (o : OperandBytes) : Nat → Format × Instr
  | 0x0 => (.rel8, .beq o.b1)
  | 0x1 => (.dpindy, .sbcDpIndY o.b1)
  | 0x2 => (.dpind, .sbcDpInd o.b1)
  | 0x3 => (.srindy, .sbcSrIndY o.b1)
  | 0x4 => (.imm16, .pea o.word)
  | 0x5 => (.dpx, .sbcDpX o.b1)
  | 0x6 => (.dpx, .incDpX o.b1)
  | 0x7 => (.dpindly, .sbcDpIndLY o.b1)
  | 0x8 => (.imp, .sed)
  | 0x9 => (.absy, .sbcAbsY o.word)
  | 0xA => (.imp, .plx)
  | 0xB => (.imp, .xce)
  | 0xC => (.absindx, .jsrIndX o.word)
  | 0xD => (.absx, .sbcAbsX o.word)
  | 0xE => (.absx, .incAbsX o.word)
  | _ => (.abslx, .sbcLongX o.long)

/-- The opcode map (R105): high nibble, then low nibble. The last arm is nibble F. -/
def opcodeMap (op : Byte) (o : OperandBytes) : Format × Instr :=
  match op.toNat / 16 with
  | 0x0 => opcodeRow0 o (op.toNat % 16)
  | 0x1 => opcodeRow1 o (op.toNat % 16)
  | 0x2 => opcodeRow2 o (op.toNat % 16)
  | 0x3 => opcodeRow3 o (op.toNat % 16)
  | 0x4 => opcodeRow4 o (op.toNat % 16)
  | 0x5 => opcodeRow5 o (op.toNat % 16)
  | 0x6 => opcodeRow6 o (op.toNat % 16)
  | 0x7 => opcodeRow7 o (op.toNat % 16)
  | 0x8 => opcodeRow8 o (op.toNat % 16)
  | 0x9 => opcodeRow9 o (op.toNat % 16)
  | 0xA => opcodeRowA o (op.toNat % 16)
  | 0xB => opcodeRowB o (op.toNat % 16)
  | 0xC => opcodeRowC o (op.toNat % 16)
  | 0xD => opcodeRowD o (op.toNat % 16)
  | 0xE => opcodeRowE o (op.toNat % 16)
  | _ => opcodeRowF o (op.toNat % 16)

/-- The number of operand bytes after an opcode, by P.M and P.X (R100, R102). -/
def operandCount (m x : Bool) (op : Byte) : Nat := (opcodeMap op ⟨m, x, 0, 0, 0⟩).1.operandBytes m x

/-- The instruction of an opcode and its operand bytes, in order. -/
def assemble (m x : Bool) (op : Byte) (operands : List Byte) : Instr :=
  (opcodeMap op ⟨m, x, operands.getD 0 0, operands.getD 1 0, operands.getD 2 0⟩).2

/-- Why a string of bytes is no instruction. The hardware has no such case: it fetches the bytes it needs (log entry 10). -/
inductive DecodeError where
  /-- there is no byte at all -/
  | empty
  /-- the string ends inside the operand of this opcode -/
  | truncated (op : Byte)
deriving DecidableEq, Repr

/-- Read one instruction off a string of bytes, by the width flags P.M and P.X; the bytes after it are given back. -/
def decode (m x : Bool) : List Byte → Except DecodeError (Instr × List Byte)
  | [] => .error .empty
  | op :: rest =>
    if rest.length < operandCount m x op then .error (.truncated op)
    else .ok (assemble m x op (rest.take (operandCount m x op)), rest.drop (operandCount m x op))

/-- The bytes of an immediate, little-endian (R101). -/
def Imm.bytes : Imm → List Byte
  | .byte v => [v]
  | .word v => [loByte v, hiByte v]

/-- The bytes of an instruction: the opcode, then the operand bytes (R101, R105). -/
def encode : Instr → List Byte
  | .brk sig => [0x00, sig]
  | .oraDpIndX off => [0x01, off]
  | .cop sig => [0x02, sig]
  | .oraSr off => [0x03, off]
  | .tsbDp off => [0x04, off]
  | .oraDp off => [0x05, off]
  | .aslDp off => [0x06, off]
  | .oraDpIndL off => [0x07, off]
  | .php => [0x08]
  | .oraImm v => 0x09 :: v.bytes
  | .aslAcc => [0x0A]
  | .phd => [0x0B]
  | .tsbAbs addr => [0x0C, loByte addr, hiByte addr]
  | .oraAbs addr => [0x0D, loByte addr, hiByte addr]
  | .aslAbs addr => [0x0E, loByte addr, hiByte addr]
  | .oraLong addr => [0x0F, loByte addr.offset, hiByte addr.offset, addr.bank]
  | .bpl off => [0x10, off]
  | .oraDpIndY off => [0x11, off]
  | .oraDpInd off => [0x12, off]
  | .oraSrIndY off => [0x13, off]
  | .trbDp off => [0x14, off]
  | .oraDpX off => [0x15, off]
  | .aslDpX off => [0x16, off]
  | .oraDpIndLY off => [0x17, off]
  | .clc => [0x18]
  | .oraAbsY addr => [0x19, loByte addr, hiByte addr]
  | .incAcc => [0x1A]
  | .tcs => [0x1B]
  | .trbAbs addr => [0x1C, loByte addr, hiByte addr]
  | .oraAbsX addr => [0x1D, loByte addr, hiByte addr]
  | .aslAbsX addr => [0x1E, loByte addr, hiByte addr]
  | .oraLongX addr => [0x1F, loByte addr.offset, hiByte addr.offset, addr.bank]
  | .jsrAbs addr => [0x20, loByte addr, hiByte addr]
  | .andDpIndX off => [0x21, off]
  | .jsl addr => [0x22, loByte addr.offset, hiByte addr.offset, addr.bank]
  | .andSr off => [0x23, off]
  | .bitDp off => [0x24, off]
  | .andDp off => [0x25, off]
  | .rolDp off => [0x26, off]
  | .andDpIndL off => [0x27, off]
  | .plp => [0x28]
  | .andImm v => 0x29 :: v.bytes
  | .rolAcc => [0x2A]
  | .pld => [0x2B]
  | .bitAbs addr => [0x2C, loByte addr, hiByte addr]
  | .andAbs addr => [0x2D, loByte addr, hiByte addr]
  | .rolAbs addr => [0x2E, loByte addr, hiByte addr]
  | .andLong addr => [0x2F, loByte addr.offset, hiByte addr.offset, addr.bank]
  | .bmi off => [0x30, off]
  | .andDpIndY off => [0x31, off]
  | .andDpInd off => [0x32, off]
  | .andSrIndY off => [0x33, off]
  | .bitDpX off => [0x34, off]
  | .andDpX off => [0x35, off]
  | .rolDpX off => [0x36, off]
  | .andDpIndLY off => [0x37, off]
  | .sec => [0x38]
  | .andAbsY addr => [0x39, loByte addr, hiByte addr]
  | .decAcc => [0x3A]
  | .tsc => [0x3B]
  | .bitAbsX addr => [0x3C, loByte addr, hiByte addr]
  | .andAbsX addr => [0x3D, loByte addr, hiByte addr]
  | .rolAbsX addr => [0x3E, loByte addr, hiByte addr]
  | .andLongX addr => [0x3F, loByte addr.offset, hiByte addr.offset, addr.bank]
  | .rti => [0x40]
  | .eorDpIndX off => [0x41, off]
  | .wdm sig => [0x42, sig]
  | .eorSr off => [0x43, off]
  | .mvp dst src => [0x44, dst, src]
  | .eorDp off => [0x45, off]
  | .lsrDp off => [0x46, off]
  | .eorDpIndL off => [0x47, off]
  | .pha => [0x48]
  | .eorImm v => 0x49 :: v.bytes
  | .lsrAcc => [0x4A]
  | .phk => [0x4B]
  | .jmpAbs addr => [0x4C, loByte addr, hiByte addr]
  | .eorAbs addr => [0x4D, loByte addr, hiByte addr]
  | .lsrAbs addr => [0x4E, loByte addr, hiByte addr]
  | .eorLong addr => [0x4F, loByte addr.offset, hiByte addr.offset, addr.bank]
  | .bvc off => [0x50, off]
  | .eorDpIndY off => [0x51, off]
  | .eorDpInd off => [0x52, off]
  | .eorSrIndY off => [0x53, off]
  | .mvn dst src => [0x54, dst, src]
  | .eorDpX off => [0x55, off]
  | .lsrDpX off => [0x56, off]
  | .eorDpIndLY off => [0x57, off]
  | .cli => [0x58]
  | .eorAbsY addr => [0x59, loByte addr, hiByte addr]
  | .phy => [0x5A]
  | .tcd => [0x5B]
  | .jmlLong addr => [0x5C, loByte addr.offset, hiByte addr.offset, addr.bank]
  | .eorAbsX addr => [0x5D, loByte addr, hiByte addr]
  | .lsrAbsX addr => [0x5E, loByte addr, hiByte addr]
  | .eorLongX addr => [0x5F, loByte addr.offset, hiByte addr.offset, addr.bank]
  | .rts => [0x60]
  | .adcDpIndX off => [0x61, off]
  | .per off => [0x62, loByte off, hiByte off]
  | .adcSr off => [0x63, off]
  | .stzDp off => [0x64, off]
  | .adcDp off => [0x65, off]
  | .rorDp off => [0x66, off]
  | .adcDpIndL off => [0x67, off]
  | .pla => [0x68]
  | .adcImm v => 0x69 :: v.bytes
  | .rorAcc => [0x6A]
  | .rtl => [0x6B]
  | .jmpInd addr => [0x6C, loByte addr, hiByte addr]
  | .adcAbs addr => [0x6D, loByte addr, hiByte addr]
  | .rorAbs addr => [0x6E, loByte addr, hiByte addr]
  | .adcLong addr => [0x6F, loByte addr.offset, hiByte addr.offset, addr.bank]
  | .bvs off => [0x70, off]
  | .adcDpIndY off => [0x71, off]
  | .adcDpInd off => [0x72, off]
  | .adcSrIndY off => [0x73, off]
  | .stzDpX off => [0x74, off]
  | .adcDpX off => [0x75, off]
  | .rorDpX off => [0x76, off]
  | .adcDpIndLY off => [0x77, off]
  | .sei => [0x78]
  | .adcAbsY addr => [0x79, loByte addr, hiByte addr]
  | .ply => [0x7A]
  | .tdc => [0x7B]
  | .jmpIndX addr => [0x7C, loByte addr, hiByte addr]
  | .adcAbsX addr => [0x7D, loByte addr, hiByte addr]
  | .rorAbsX addr => [0x7E, loByte addr, hiByte addr]
  | .adcLongX addr => [0x7F, loByte addr.offset, hiByte addr.offset, addr.bank]
  | .bra off => [0x80, off]
  | .staDpIndX off => [0x81, off]
  | .brl off => [0x82, loByte off, hiByte off]
  | .staSr off => [0x83, off]
  | .styDp off => [0x84, off]
  | .staDp off => [0x85, off]
  | .stxDp off => [0x86, off]
  | .staDpIndL off => [0x87, off]
  | .dey => [0x88]
  | .bitImm v => 0x89 :: v.bytes
  | .txa => [0x8A]
  | .phb => [0x8B]
  | .styAbs addr => [0x8C, loByte addr, hiByte addr]
  | .staAbs addr => [0x8D, loByte addr, hiByte addr]
  | .stxAbs addr => [0x8E, loByte addr, hiByte addr]
  | .staLong addr => [0x8F, loByte addr.offset, hiByte addr.offset, addr.bank]
  | .bcc off => [0x90, off]
  | .staDpIndY off => [0x91, off]
  | .staDpInd off => [0x92, off]
  | .staSrIndY off => [0x93, off]
  | .styDpX off => [0x94, off]
  | .staDpX off => [0x95, off]
  | .stxDpY off => [0x96, off]
  | .staDpIndLY off => [0x97, off]
  | .tya => [0x98]
  | .staAbsY addr => [0x99, loByte addr, hiByte addr]
  | .txs => [0x9A]
  | .txy => [0x9B]
  | .stzAbs addr => [0x9C, loByte addr, hiByte addr]
  | .staAbsX addr => [0x9D, loByte addr, hiByte addr]
  | .stzAbsX addr => [0x9E, loByte addr, hiByte addr]
  | .staLongX addr => [0x9F, loByte addr.offset, hiByte addr.offset, addr.bank]
  | .ldyImm v => 0xA0 :: v.bytes
  | .ldaDpIndX off => [0xA1, off]
  | .ldxImm v => 0xA2 :: v.bytes
  | .ldaSr off => [0xA3, off]
  | .ldyDp off => [0xA4, off]
  | .ldaDp off => [0xA5, off]
  | .ldxDp off => [0xA6, off]
  | .ldaDpIndL off => [0xA7, off]
  | .tay => [0xA8]
  | .ldaImm v => 0xA9 :: v.bytes
  | .tax => [0xAA]
  | .plb => [0xAB]
  | .ldyAbs addr => [0xAC, loByte addr, hiByte addr]
  | .ldaAbs addr => [0xAD, loByte addr, hiByte addr]
  | .ldxAbs addr => [0xAE, loByte addr, hiByte addr]
  | .ldaLong addr => [0xAF, loByte addr.offset, hiByte addr.offset, addr.bank]
  | .bcs off => [0xB0, off]
  | .ldaDpIndY off => [0xB1, off]
  | .ldaDpInd off => [0xB2, off]
  | .ldaSrIndY off => [0xB3, off]
  | .ldyDpX off => [0xB4, off]
  | .ldaDpX off => [0xB5, off]
  | .ldxDpY off => [0xB6, off]
  | .ldaDpIndLY off => [0xB7, off]
  | .clv => [0xB8]
  | .ldaAbsY addr => [0xB9, loByte addr, hiByte addr]
  | .tsx => [0xBA]
  | .tyx => [0xBB]
  | .ldyAbsX addr => [0xBC, loByte addr, hiByte addr]
  | .ldaAbsX addr => [0xBD, loByte addr, hiByte addr]
  | .ldxAbsY addr => [0xBE, loByte addr, hiByte addr]
  | .ldaLongX addr => [0xBF, loByte addr.offset, hiByte addr.offset, addr.bank]
  | .cpyImm v => 0xC0 :: v.bytes
  | .cmpDpIndX off => [0xC1, off]
  | .rep v => [0xC2, v]
  | .cmpSr off => [0xC3, off]
  | .cpyDp off => [0xC4, off]
  | .cmpDp off => [0xC5, off]
  | .decDp off => [0xC6, off]
  | .cmpDpIndL off => [0xC7, off]
  | .iny => [0xC8]
  | .cmpImm v => 0xC9 :: v.bytes
  | .dex => [0xCA]
  | .wai => [0xCB]
  | .cpyAbs addr => [0xCC, loByte addr, hiByte addr]
  | .cmpAbs addr => [0xCD, loByte addr, hiByte addr]
  | .decAbs addr => [0xCE, loByte addr, hiByte addr]
  | .cmpLong addr => [0xCF, loByte addr.offset, hiByte addr.offset, addr.bank]
  | .bne off => [0xD0, off]
  | .cmpDpIndY off => [0xD1, off]
  | .cmpDpInd off => [0xD2, off]
  | .cmpSrIndY off => [0xD3, off]
  | .pei off => [0xD4, off]
  | .cmpDpX off => [0xD5, off]
  | .decDpX off => [0xD6, off]
  | .cmpDpIndLY off => [0xD7, off]
  | .cld => [0xD8]
  | .cmpAbsY addr => [0xD9, loByte addr, hiByte addr]
  | .phx => [0xDA]
  | .stp => [0xDB]
  | .jmlInd addr => [0xDC, loByte addr, hiByte addr]
  | .cmpAbsX addr => [0xDD, loByte addr, hiByte addr]
  | .decAbsX addr => [0xDE, loByte addr, hiByte addr]
  | .cmpLongX addr => [0xDF, loByte addr.offset, hiByte addr.offset, addr.bank]
  | .cpxImm v => 0xE0 :: v.bytes
  | .sbcDpIndX off => [0xE1, off]
  | .sep v => [0xE2, v]
  | .sbcSr off => [0xE3, off]
  | .cpxDp off => [0xE4, off]
  | .sbcDp off => [0xE5, off]
  | .incDp off => [0xE6, off]
  | .sbcDpIndL off => [0xE7, off]
  | .inx => [0xE8]
  | .sbcImm v => 0xE9 :: v.bytes
  | .nop => [0xEA]
  | .xba => [0xEB]
  | .cpxAbs addr => [0xEC, loByte addr, hiByte addr]
  | .sbcAbs addr => [0xED, loByte addr, hiByte addr]
  | .incAbs addr => [0xEE, loByte addr, hiByte addr]
  | .sbcLong addr => [0xEF, loByte addr.offset, hiByte addr.offset, addr.bank]
  | .beq off => [0xF0, off]
  | .sbcDpIndY off => [0xF1, off]
  | .sbcDpInd off => [0xF2, off]
  | .sbcSrIndY off => [0xF3, off]
  | .pea v => [0xF4, loByte v, hiByte v]
  | .sbcDpX off => [0xF5, off]
  | .incDpX off => [0xF6, off]
  | .sbcDpIndLY off => [0xF7, off]
  | .sed => [0xF8]
  | .sbcAbsY addr => [0xF9, loByte addr, hiByte addr]
  | .plx => [0xFA]
  | .xce => [0xFB]
  | .jsrIndX addr => [0xFC, loByte addr, hiByte addr]
  | .sbcAbsX addr => [0xFD, loByte addr, hiByte addr]
  | .incAbsX addr => [0xFE, loByte addr, hiByte addr]
  | .sbcLongX addr => [0xFF, loByte addr.offset, hiByte addr.offset, addr.bank]

/-- The opcode byte of an instruction (R105). -/
def Instr.opcode (i : Instr) : Byte := (encode i).headD 0

/-- The instruction read from the bits w of an opcode-table row of nbits bits (bit 0 the least significant bit of the
first byte, later bytes above), every byte past nbits being 0, under the width flags of reset, P.M = P.X = 1
(70_reset_and_hazards.md R450; log entry 13). -/
def decodeTableWord (nbits w : Nat) : Option Instr :=
  let v := w % 2 ^ nbits
  match decode true true [BitVec.ofNat 8 v, BitVec.ofNat 8 (v / 0x100), BitVec.ofNat 8 (v / 0x10000), BitVec.ofNat 8 (v / 0x1000000)] with
  | .ok (i, _) => some i
  | .error _ => none

end Sys2Proof
end

