-- ==== Sys2Proof/Machine/Fetch.lean ====
section
/-! DEFINITION. Fetching an instruction at PBR:PC, the choice of what a step does, and the place where an instruction is
put so that it is fetched next (40_dispatch.md). -/

namespace Sys2Proof.Machine

/-- n instruction-stream bytes in order, each a fetch8 (40_dispatch.md R122). -/
def State.fetchBytes (s : State) : Nat → List Byte × State
  | 0 => ([], s)
  | n + 1 =>
    let b := s.fetch8
    let rest := b.2.fetchBytes n
    (b.1 :: rest.1, rest.2)

/-- Fetch the opcode, then as many operand bytes as it takes under the P.M and P.X of this step, and read the instruction
off them (40_dispatch.md R123, R125). -/
def State.fetchInstr (s : State) : Instr × State :=
  let op := s.fetch8
  let m := flag s.p .m
  let x := flag s.p .x
  let operands := op.2.fetchBytes (operandCount m x op.1)
  (assemble m x op.1 operands.1, operands.2)

/-- What a step does (40_dispatch.md R120). -/
inductive StepKind where
  | idle
  | service (kind : Interrupt)
  | instruction
deriving DecidableEq, Repr

/-- The choice at the top of a step, in the order of 40_dispatch.md R120 and 60_exceptions.md R403. -/
def State.stepKind (s : State) : StepKind :=
  if s.stopped then .idle
  else if s.bus.nmiPending then .service .nmi
  else if s.bus.irqPending && !flag s.p .i then .service .irq
  else if s.waiting && !s.bus.irqPending then .idle
  else .instruction

/-- An idle step: one cycle and nothing else (40_dispatch.md R120, R128). -/
def State.idle (s : State) : State := s.addCycles 1

/-- The first thing an instruction step does: a wait that a masked IRQ ends is over (40_dispatch.md R120). -/
def State.awake (s : State) : State := { s with waiting := false }

/-- Put a byte into the storage behind an address: work RAM, save RAM or the ROM image, which grows to hold it. I/O and
open bus hold nothing. This is a load from outside (20_memory.md R71, R73), not a bus write. -/
def Bus.place (b : Bus) (address : Addr) (value : Byte) : Bus :=
  match mapAddress b.scheme address with
  | (.wram, off) => { b with wram := b.wram.write (off % wramSize) value }
  | (.sram, off) => { b with sram := b.sram.write (off % sramSize) value }
  | (.rom, off) => { b with rom := b.rom.write off value, romLen := max b.romLen (off + 1) }
  | (.io, _) => b
  | (.openBus, _) => b

/-- Whether an address has storage behind it. -/
def Bus.stores (b : Bus) (address : Addr) : Bool :=
  match (mapAddress b.scheme address).1 with
  | .wram | .sram | .rom => true
  | .io | .openBus => false

/-- Put bytes at consecutive offsets of a bank, wrapping inside it. -/
def Bus.placeAll (b : Bus) (bank : Byte) (offset : Word) : List Byte → Bus
  | [] => b
  | v :: vs => (b.place (mkAddr bank offset) v).placeAll bank (offset + 1) vs

/-- Where an instruction is put so that the next step fetches it: at PBR:PC where a cartridge is loaded and the four bytes
there have storage, else at 0x00:8000, the first ROM byte of bank 0 under SchemeA (log entry 12). -/
def State.codePlace (s : State) : Byte × Word :=
  if s.bus.romLen = 0 then (0x00, 0x8000)
  else if s.bus.stores (mkAddr s.pbr s.pc) && s.bus.stores (mkAddr s.pbr (s.pc + 1)) &&
      s.bus.stores (mkAddr s.pbr (s.pc + 2)) && s.bus.stores (mkAddr s.pbr (s.pc + 3)) then (s.pbr, s.pc)
  else (0x00, 0x8000)

/-- The state that fetches these bytes next: they are put in place, PBR:PC points at them, and nothing stands before an
instruction step (no stop, no wait, no request). -/
def State.withCode (s : State) (bytes : List Byte) : State :=
  { s with
    pbr := s.codePlace.1
    pc := s.codePlace.2
    waiting := false
    stopped := false
    bus := { s.bus.placeAll s.codePlace.1 s.codePlace.2 bytes with nmiPending := false, irqPending := false } }

end Sys2Proof.Machine
end

