-- ==== Sys2Proof/Machine/Step.lean ====
section
/-! DEFINITION. One step of the machine (40_dispatch.md R120). -/

namespace Sys2Proof.Machine

/-- CPU.step(): an idle step, an interrupt service, or one instruction (40_dispatch.md R120). The cycles it returns are
those it adds to the counter (log entry 8). -/
def step (s : State) : Host.Outcome State Fault Refusal :=
  match s.stepKind with
  | .idle => .next s.idle
  | .service kind => .next (s.serviceInterrupt kind)
  | .instruction => exec s.awake.fetchInstr.1 s.awake.fetchInstr.2

/-- s with the instruction whose bits are w (numbered as the opcode table numbers them, the bytes past nbits being 0)
placed where the next step fetches it, four bytes long (log entry 12). -/
def State.withFetchWord (s : State) (nbits w : Nat) : State :=
  let v := w % 2 ^ nbits
  s.withCode [BitVec.ofNat 8 v, BitVec.ofNat 8 (v / 0x100), BitVec.ofNat 8 (v / 0x10000), BitVec.ofNat 8 (v / 0x1000000)]

end Sys2Proof.Machine
end

