-- ==== Sys2Proof/Machine/Bridge.lean ====
section
/-! DEFINITION. What the host does to the machine between steps: the two resets, loading a cartridge, the copy service
and single actions (70_reset_and_hazards.md, 20_memory.md). -/

namespace Sys2Proof.Machine

/-- CPU.reset() (70_reset_and_hazards.md R450): the reset values, then PC from the vector at 0x00:FFFC. -/
def State.cpuReset (s : State) : State :=
  let b : Bus := { s.bus with nmiPending := false, irqPending := false }
  let v := b.readBank2 0x00 0xFFFC
  { a := 0x0000
    x := 0x0000
    y := 0x0000
    sp := 0x01FF
    d := 0x0000
    pc := if v.1 = 0x0000 ∨ v.1 = 0xFFFF then Config.resetFallbackPc else v.1
    pbr := 0x00
    dbr := 0x00
    p := 0x34
    e := true
    cycles := 0
    waiting := false
    stopped := false
    bus := v.2 }

/-- Bus.reset() (20_memory.md R75): work RAM is zeroed, the rest kept. -/
def State.busReset (s : State) : State := s.withBus { s.bus with wram := [] }

/-- byte(i) of detectScheme: 0x00 past the image (20_memory.md R72). -/
def imageByte (image : List Byte) (i : Nat) : Byte := image.getD i 0x00

/-- word(i) of detectScheme (20_memory.md R72). -/
def imageWord (image : List Byte) (i : Nat) : Word := mkWord (imageByte image (i + 1)) (imageByte image i)

/-- printable(c) of detectScheme, as the score it adds (20_memory.md R72). -/
def printable (c : Byte) : Nat := if 0x20 ≤ c ∧ c ≤ 0x7E then 1 else 0

/-- score(h) of detectScheme (20_memory.md R72). -/
def headerScore (image : List Byte) (h : Nat) : Nat :=
  printable (imageByte image (h - 0x10))
    + (printable (imageByte image (h - 0x0E)) + printable (imageByte image (h - 0x0D))
      + printable (imageByte image (h - 0x0C)) + printable (imageByte image (h - 0x0B)))
    + (if 0x05 ≤ imageByte image (h + 0x17) ∧ imageByte image (h + 0x17) ≤ 0x0D then 2 else 0)
    + (if imageWord image (h + 0x1C) ^^^ imageWord image (h + 0x1E) = 0xFFFF then 4 else 0)

/-- detectScheme(): SchemeB only on a strictly greater score (20_memory.md R72). -/
def detectScheme (image : List Byte) : Scheme :=
  if headerScore image 0x7FC0 < headerScore image 0xFFC0 then .schemeB else .schemeA

/-- loadCartridge(bytes) (20_memory.md R71). -/
def State.loadCartridge (s : State) (image : List Byte) : State :=
  s.withBus { s.bus with rom := Memory.ofBytes 0 image, romLen := image.length, scheme := detectScheme image }

/-- dmaCopy(source, dest, length): byte by byte, ascending, through the bus; no cycles, no CPU register
(20_memory.md R70). -/
def Bus.dmaCopy (b : Bus) (source dest : Addr) : Nat → Bus
  | 0 => b
  | n + 1 =>
    let r := b.read source
    (r.2.write dest r.1).dmaCopy (source + 1) (dest + 1) n

/-- What the host may do between steps (20_memory.md R68, R70, R71, R73, R75; 60_exceptions.md R406, R407, R409). -/
inductive HostCall where
  | cpuReset
  | busReset
  | loadCartridge (image : List Byte)
  | dmaCopy (source dest : Addr) (length : Nat)
  | act (action : HostAction)
deriving DecidableEq, Repr

/-- The effect of a call of the host. -/
def HostCall.apply (s : State) : HostCall → State
  | .cpuReset => s.cpuReset
  | .busReset => s.busReset
  | .loadCartridge image => s.loadCartridge image
  | .dmaCopy source dest length => s.withBus (s.bus.dmaCopy source dest length)
  | .act action => s.withBus (action.apply s.bus)

/-- The boot sequence before the first step: loadCartridge, Bus.reset, CPU.reset (70_reset_and_hazards.md R453). -/
def State.boot (s : State) (image : List Byte) : State := ((s.loadCartridge image).busReset).cpuReset

end Sys2Proof.Machine
end

