-- ==== Sys2Proof/Machine/Forms.lean ====
section
/-! DEFINITION. The rows of the opcode table as data, for the statements about instructions: the data operand an
instruction names, the cycle columns of its row by opcode (30_encoding.md R105), and the opcodes of each mnemonic. The meanings do not use this file. -/

namespace Sys2Proof.Machine

/-- The operand of an instruction that reads or writes data through a mode or an immediate (41_addressing.md R141 to
R157); none for the accumulator, implied, stack, block move and control-transfer forms. -/
def dataOperand : Instr → Option Operand
  | .ldaDpIndX off => some (.mem (.dpIndX off))
  | .ldaSr off => some (.mem (.sr off))
  | .ldaDp off => some (.mem (.dp off))
  | .ldaDpIndL off => some (.mem (.dpIndL off))
  | .ldaImm v => some (.imm v)
  | .ldaAbs addr => some (.mem (.abs addr))
  | .ldaLong addr => some (.mem (.long addr))
  | .ldaDpIndY off => some (.mem (.dpIndY off))
  | .ldaDpInd off => some (.mem (.dpInd off))
  | .ldaSrIndY off => some (.mem (.srIndY off))
  | .ldaDpX off => some (.mem (.dpX off))
  | .ldaDpIndLY off => some (.mem (.dpIndLY off))
  | .ldaAbsY addr => some (.mem (.absY addr))
  | .ldaAbsX addr => some (.mem (.absX addr))
  | .ldaLongX addr => some (.mem (.longX addr))
  | .ldxImm v => some (.imm v)
  | .ldxDp off => some (.mem (.dp off))
  | .ldxAbs addr => some (.mem (.abs addr))
  | .ldxDpY off => some (.mem (.dpY off))
  | .ldxAbsY addr => some (.mem (.absY addr))
  | .ldyImm v => some (.imm v)
  | .ldyDp off => some (.mem (.dp off))
  | .ldyAbs addr => some (.mem (.abs addr))
  | .ldyDpX off => some (.mem (.dpX off))
  | .ldyAbsX addr => some (.mem (.absX addr))
  | .staDpIndX off => some (.mem (.dpIndX off))
  | .staSr off => some (.mem (.sr off))
  | .staDp off => some (.mem (.dp off))
  | .staDpIndL off => some (.mem (.dpIndL off))
  | .staAbs addr => some (.mem (.abs addr))
  | .staLong addr => some (.mem (.long addr))
  | .staDpIndY off => some (.mem (.dpIndY off))
  | .staDpInd off => some (.mem (.dpInd off))
  | .staSrIndY off => some (.mem (.srIndY off))
  | .staDpX off => some (.mem (.dpX off))
  | .staDpIndLY off => some (.mem (.dpIndLY off))
  | .staAbsY addr => some (.mem (.absY addr))
  | .staAbsX addr => some (.mem (.absX addr))
  | .staLongX addr => some (.mem (.longX addr))
  | .stxDp off => some (.mem (.dp off))
  | .stxAbs addr => some (.mem (.abs addr))
  | .stxDpY off => some (.mem (.dpY off))
  | .styDp off => some (.mem (.dp off))
  | .styAbs addr => some (.mem (.abs addr))
  | .styDpX off => some (.mem (.dpX off))
  | .stzDp off => some (.mem (.dp off))
  | .stzDpX off => some (.mem (.dpX off))
  | .stzAbs addr => some (.mem (.abs addr))
  | .stzAbsX addr => some (.mem (.absX addr))
  | .adcDpIndX off => some (.mem (.dpIndX off))
  | .adcSr off => some (.mem (.sr off))
  | .adcDp off => some (.mem (.dp off))
  | .adcDpIndL off => some (.mem (.dpIndL off))
  | .adcImm v => some (.imm v)
  | .adcAbs addr => some (.mem (.abs addr))
  | .adcLong addr => some (.mem (.long addr))
  | .adcDpIndY off => some (.mem (.dpIndY off))
  | .adcDpInd off => some (.mem (.dpInd off))
  | .adcSrIndY off => some (.mem (.srIndY off))
  | .adcDpX off => some (.mem (.dpX off))
  | .adcDpIndLY off => some (.mem (.dpIndLY off))
  | .adcAbsY addr => some (.mem (.absY addr))
  | .adcAbsX addr => some (.mem (.absX addr))
  | .adcLongX addr => some (.mem (.longX addr))
  | .sbcDpIndX off => some (.mem (.dpIndX off))
  | .sbcSr off => some (.mem (.sr off))
  | .sbcDp off => some (.mem (.dp off))
  | .sbcDpIndL off => some (.mem (.dpIndL off))
  | .sbcImm v => some (.imm v)
  | .sbcAbs addr => some (.mem (.abs addr))
  | .sbcLong addr => some (.mem (.long addr))
  | .sbcDpIndY off => some (.mem (.dpIndY off))
  | .sbcDpInd off => some (.mem (.dpInd off))
  | .sbcSrIndY off => some (.mem (.srIndY off))
  | .sbcDpX off => some (.mem (.dpX off))
  | .sbcDpIndLY off => some (.mem (.dpIndLY off))
  | .sbcAbsY addr => some (.mem (.absY addr))
  | .sbcAbsX addr => some (.mem (.absX addr))
  | .sbcLongX addr => some (.mem (.longX addr))
  | .andDpIndX off => some (.mem (.dpIndX off))
  | .andSr off => some (.mem (.sr off))
  | .andDp off => some (.mem (.dp off))
  | .andDpIndL off => some (.mem (.dpIndL off))
  | .andImm v => some (.imm v)
  | .andAbs addr => some (.mem (.abs addr))
  | .andLong addr => some (.mem (.long addr))
  | .andDpIndY off => some (.mem (.dpIndY off))
  | .andDpInd off => some (.mem (.dpInd off))
  | .andSrIndY off => some (.mem (.srIndY off))
  | .andDpX off => some (.mem (.dpX off))
  | .andDpIndLY off => some (.mem (.dpIndLY off))
  | .andAbsY addr => some (.mem (.absY addr))
  | .andAbsX addr => some (.mem (.absX addr))
  | .andLongX addr => some (.mem (.longX addr))
  | .oraDpIndX off => some (.mem (.dpIndX off))
  | .oraSr off => some (.mem (.sr off))
  | .oraDp off => some (.mem (.dp off))
  | .oraDpIndL off => some (.mem (.dpIndL off))
  | .oraImm v => some (.imm v)
  | .oraAbs addr => some (.mem (.abs addr))
  | .oraLong addr => some (.mem (.long addr))
  | .oraDpIndY off => some (.mem (.dpIndY off))
  | .oraDpInd off => some (.mem (.dpInd off))
  | .oraSrIndY off => some (.mem (.srIndY off))
  | .oraDpX off => some (.mem (.dpX off))
  | .oraDpIndLY off => some (.mem (.dpIndLY off))
  | .oraAbsY addr => some (.mem (.absY addr))
  | .oraAbsX addr => some (.mem (.absX addr))
  | .oraLongX addr => some (.mem (.longX addr))
  | .eorDpIndX off => some (.mem (.dpIndX off))
  | .eorSr off => some (.mem (.sr off))
  | .eorDp off => some (.mem (.dp off))
  | .eorDpIndL off => some (.mem (.dpIndL off))
  | .eorImm v => some (.imm v)
  | .eorAbs addr => some (.mem (.abs addr))
  | .eorLong addr => some (.mem (.long addr))
  | .eorDpIndY off => some (.mem (.dpIndY off))
  | .eorDpInd off => some (.mem (.dpInd off))
  | .eorSrIndY off => some (.mem (.srIndY off))
  | .eorDpX off => some (.mem (.dpX off))
  | .eorDpIndLY off => some (.mem (.dpIndLY off))
  | .eorAbsY addr => some (.mem (.absY addr))
  | .eorAbsX addr => some (.mem (.absX addr))
  | .eorLongX addr => some (.mem (.longX addr))
  | .cmpDpIndX off => some (.mem (.dpIndX off))
  | .cmpSr off => some (.mem (.sr off))
  | .cmpDp off => some (.mem (.dp off))
  | .cmpDpIndL off => some (.mem (.dpIndL off))
  | .cmpImm v => some (.imm v)
  | .cmpAbs addr => some (.mem (.abs addr))
  | .cmpLong addr => some (.mem (.long addr))
  | .cmpDpIndY off => some (.mem (.dpIndY off))
  | .cmpDpInd off => some (.mem (.dpInd off))
  | .cmpSrIndY off => some (.mem (.srIndY off))
  | .cmpDpX off => some (.mem (.dpX off))
  | .cmpDpIndLY off => some (.mem (.dpIndLY off))
  | .cmpAbsY addr => some (.mem (.absY addr))
  | .cmpAbsX addr => some (.mem (.absX addr))
  | .cmpLongX addr => some (.mem (.longX addr))
  | .cpxImm v => some (.imm v)
  | .cpxDp off => some (.mem (.dp off))
  | .cpxAbs addr => some (.mem (.abs addr))
  | .cpyImm v => some (.imm v)
  | .cpyDp off => some (.mem (.dp off))
  | .cpyAbs addr => some (.mem (.abs addr))
  | .bitDp off => some (.mem (.dp off))
  | .bitAbs addr => some (.mem (.abs addr))
  | .bitDpX off => some (.mem (.dpX off))
  | .bitAbsX addr => some (.mem (.absX addr))
  | .bitImm v => some (.imm v)
  | .incDp off => some (.mem (.dp off))
  | .incAbs addr => some (.mem (.abs addr))
  | .incDpX off => some (.mem (.dpX off))
  | .incAbsX addr => some (.mem (.absX addr))
  | .decDp off => some (.mem (.dp off))
  | .decAbs addr => some (.mem (.abs addr))
  | .decDpX off => some (.mem (.dpX off))
  | .decAbsX addr => some (.mem (.absX addr))
  | .aslDp off => some (.mem (.dp off))
  | .aslAbs addr => some (.mem (.abs addr))
  | .aslDpX off => some (.mem (.dpX off))
  | .aslAbsX addr => some (.mem (.absX addr))
  | .lsrDp off => some (.mem (.dp off))
  | .lsrAbs addr => some (.mem (.abs addr))
  | .lsrDpX off => some (.mem (.dpX off))
  | .lsrAbsX addr => some (.mem (.absX addr))
  | .rolDp off => some (.mem (.dp off))
  | .rolAbs addr => some (.mem (.abs addr))
  | .rolDpX off => some (.mem (.dpX off))
  | .rolAbsX addr => some (.mem (.absX addr))
  | .rorDp off => some (.mem (.dp off))
  | .rorAbs addr => some (.mem (.abs addr))
  | .rorDpX off => some (.mem (.dpX off))
  | .rorAbsX addr => some (.mem (.absX addr))
  | .tsbDp off => some (.mem (.dp off))
  | .tsbAbs addr => some (.mem (.abs addr))
  | .trbDp off => some (.mem (.dp off))
  | .trbAbs addr => some (.mem (.abs addr))
  | .tax | .tay | .txa | .tya | .txy | .tyx | .tsx | .txs | .tcd | .tdc | .tcs | .tsc | .xba | .mvn _ _ | .mvp _ _
  | .incAcc | .decAcc | .inx | .iny | .dex | .dey | .aslAcc | .lsrAcc | .rolAcc | .rorAcc | .bpl _ | .bmi _
  | .bvc _ | .bvs _ | .bcc _ | .bcs _ | .bne _ | .beq _ | .bra _ | .brl _ | .jmpAbs _ | .jmpInd _ | .jmpIndX _
  | .jmlLong _ | .jmlInd _ | .jsrAbs _ | .jsrIndX _ | .jsl _ | .rts | .rtl | .brk _ | .cop _ | .rti | .pha | .phx
  | .phy | .php | .phb | .phd | .phk | .pla | .plx | .ply | .plp | .plb | .pld | .pea _ | .pei _ | .per _ | .clc
  | .sec | .cli | .sei | .cld | .sed | .clv | .rep _ | .sep _ | .xce | .nop | .wdm _ | .wai | .stp => none

/-- The base cycles and modifiers of the opcodes, one list per high nibble (30_encoding.md R105). -/
def cycleRow0 : List (Nat × List Modifier) :=
  [(7, [.e1]), (6, [.m1, .dl]), (7, [.e1]), (4, [.m1]), (5, [.m2, .dl]), (3, [.m1, .dl]),
   (5, [.m2, .dl]), (6, [.m1, .dl]), (3, []), (2, [.m1]), (2, []),
   (4, []), (6, [.m2]), (4, [.m1]), (6, [.m2]), (5, [.m1])]

def cycleRow1 : List (Nat × List Modifier) :=
  [(2, [.br]), (5, [.m1, .dl, .px]), (5, [.m1, .dl]), (7, [.m1]), (5, [.m2, .dl]), (4, [.m1, .dl]),
   (6, [.m2, .dl]), (6, [.m1, .dl]), (2, []), (4, [.m1, .px]), (2, []),
   (2, []), (6, [.m2]), (4, [.m1, .px]), (7, [.m2]), (5, [.m1])]

def cycleRow2 : List (Nat × List Modifier) :=
  [(6, []), (6, [.m1, .dl]), (8, []), (4, [.m1]), (3, [.m1, .dl]), (3, [.m1, .dl]),
   (5, [.m2, .dl]), (6, [.m1, .dl]), (4, []), (2, [.m1]), (2, []),
   (5, []), (4, [.m1]), (4, [.m1]), (6, [.m2]), (5, [.m1])]

def cycleRow3 : List (Nat × List Modifier) :=
  [(2, [.br]), (5, [.m1, .dl, .px]), (5, [.m1, .dl]), (7, [.m1]), (4, [.m1, .dl]), (4, [.m1, .dl]),
   (6, [.m2, .dl]), (6, [.m1, .dl]), (2, []), (4, [.m1, .px]), (2, []),
   (2, []), (4, [.m1, .px]), (4, [.m1, .px]), (7, [.m2]), (5, [.m1])]

def cycleRow4 : List (Nat × List Modifier) :=
  [(6, [.e1]), (6, [.m1, .dl]), (2, []), (4, [.m1]), (7, [.mv]), (3, [.m1, .dl]),
   (5, [.m2, .dl]), (6, [.m1, .dl]), (3, [.m1]), (2, [.m1]), (2, []),
   (3, []), (3, []), (4, [.m1]), (6, [.m2]), (5, [.m1])]

def cycleRow5 : List (Nat × List Modifier) :=
  [(2, [.br]), (5, [.m1, .dl, .px]), (5, [.m1, .dl]), (7, [.m1]), (7, [.mv]), (4, [.m1, .dl]),
   (6, [.m2, .dl]), (6, [.m1, .dl]), (2, []), (4, [.m1, .px]), (3, [.x1]),
   (2, []), (4, []), (4, [.m1, .px]), (7, [.m2]), (5, [.m1])]

def cycleRow6 : List (Nat × List Modifier) :=
  [(6, []), (6, [.m1, .dl]), (6, []), (4, [.m1]), (3, [.m1, .dl]), (3, [.m1, .dl]),
   (5, [.m2, .dl]), (6, [.m1, .dl]), (4, [.m1]), (2, [.m1]), (2, []),
   (6, []), (5, []), (4, [.m1]), (6, [.m2]), (5, [.m1])]

def cycleRow7 : List (Nat × List Modifier) :=
  [(2, [.br]), (5, [.m1, .dl, .px]), (5, [.m1, .dl]), (7, [.m1]), (4, [.m1, .dl]), (4, [.m1, .dl]),
   (6, [.m2, .dl]), (6, [.m1, .dl]), (2, []), (4, [.m1, .px]), (4, [.x1]),
   (2, []), (6, []), (4, [.m1, .px]), (7, [.m2]), (5, [.m1])]

def cycleRow8 : List (Nat × List Modifier) :=
  [(3, [.bra]), (6, [.m1, .dl]), (4, []), (4, [.m1]), (3, [.x1, .dl]), (3, [.m1, .dl]),
   (3, [.x1, .dl]), (6, [.m1, .dl]), (2, []), (2, [.m1]), (2, []),
   (3, []), (4, [.x1]), (4, [.m1]), (4, [.x1]), (5, [.m1])]

def cycleRow9 : List (Nat × List Modifier) :=
  [(2, [.br]), (6, [.m1, .dl]), (5, [.m1, .dl]), (7, [.m1]), (4, [.x1, .dl]), (4, [.m1, .dl]),
   (4, [.x1, .dl]), (6, [.m1, .dl]), (2, []), (5, [.m1]), (2, []),
   (2, []), (4, [.m1]), (5, [.m1]), (5, [.m1]), (5, [.m1])]

def cycleRowA : List (Nat × List Modifier) :=
  [(2, [.x1]), (6, [.m1, .dl]), (2, [.x1]), (4, [.m1]), (3, [.x1, .dl]), (3, [.m1, .dl]),
   (3, [.x1, .dl]), (6, [.m1, .dl]), (2, []), (2, [.m1]), (2, []),
   (4, []), (4, [.x1]), (4, [.m1]), (4, [.x1]), (5, [.m1])]

def cycleRowB : List (Nat × List Modifier) :=
  [(2, [.br]), (5, [.m1, .dl, .px]), (5, [.m1, .dl]), (7, [.m1]), (4, [.x1, .dl]), (4, [.m1, .dl]),
   (4, [.x1, .dl]), (6, [.m1, .dl]), (2, []), (4, [.m1, .px]), (2, []),
   (2, []), (4, [.x1, .px]), (4, [.m1, .px]), (4, [.x1, .px]), (5, [.m1])]

def cycleRowC : List (Nat × List Modifier) :=
  [(2, [.x1]), (6, [.m1, .dl]), (3, []), (4, [.m1]), (3, [.x1, .dl]), (3, [.m1, .dl]),
   (5, [.m2, .dl]), (6, [.m1, .dl]), (2, []), (2, [.m1]), (2, []),
   (3, []), (4, [.x1]), (4, [.m1]), (6, [.m2]), (5, [.m1])]

def cycleRowD : List (Nat × List Modifier) :=
  [(2, [.br]), (5, [.m1, .dl, .px]), (5, [.m1, .dl]), (7, [.m1]), (6, [.dl]), (4, [.m1, .dl]),
   (6, [.m2, .dl]), (6, [.m1, .dl]), (2, []), (4, [.m1, .px]), (3, [.x1]),
   (3, []), (6, []), (4, [.m1, .px]), (7, [.m2]), (5, [.m1])]

def cycleRowE : List (Nat × List Modifier) :=
  [(2, [.x1]), (6, [.m1, .dl]), (3, []), (4, [.m1]), (3, [.x1, .dl]), (3, [.m1, .dl]),
   (5, [.m2, .dl]), (6, [.m1, .dl]), (2, []), (2, [.m1]), (2, []),
   (3, []), (4, [.x1]), (4, [.m1]), (6, [.m2]), (5, [.m1])]

def cycleRowF : List (Nat × List Modifier) :=
  [(2, [.br]), (5, [.m1, .dl, .px]), (5, [.m1, .dl]), (7, [.m1]), (5, []), (4, [.m1, .dl]),
   (6, [.m2, .dl]), (6, [.m1, .dl]), (2, []), (4, [.m1, .px]), (4, [.x1]),
   (2, []), (8, []), (4, [.m1, .px]), (7, [.m2]), (5, [.m1])]

/-- The cycle rows by high nibble. -/
def cycleRows : List (List (Nat × List Modifier)) :=
  [cycleRow0, cycleRow1, cycleRow2, cycleRow3, cycleRow4, cycleRow5, cycleRow6, cycleRow7,
   cycleRow8, cycleRow9, cycleRowA, cycleRowB, cycleRowC, cycleRowD, cycleRowE, cycleRowF]

/-- The base cycles and modifiers of an opcode (30_encoding.md R105). -/
def opcodeCycles (op : Byte) : Nat × List Modifier :=
  (cycleRows.getD (op.toNat / 16) []).getD (op.toNat % 16) (0, [])

/-- LDA (42_load_store_transfer.md R180). -/
def ldaOpcodes : List Byte :=
  [0xA1, 0xA3, 0xA5, 0xA7, 0xA9, 0xAD, 0xAF, 0xB1, 0xB2, 0xB3, 0xB5, 0xB7, 0xB9, 0xBD, 0xBF]

/-- LDX (R181). -/
def ldxOpcodes : List Byte :=
  [0xA2, 0xA6, 0xAE, 0xB6, 0xBE]

/-- LDY (R182). -/
def ldyOpcodes : List Byte :=
  [0xA0, 0xA4, 0xAC, 0xB4, 0xBC]

/-- STA (R183). -/
def staOpcodes : List Byte :=
  [0x81, 0x83, 0x85, 0x87, 0x8D, 0x8F, 0x91, 0x92, 0x93, 0x95, 0x97, 0x99, 0x9D, 0x9F]

/-- STX (R184). -/
def stxOpcodes : List Byte :=
  [0x86, 0x8E, 0x96]

/-- STY (R185). -/
def styOpcodes : List Byte :=
  [0x84, 0x8C, 0x94]

/-- STZ (R186). -/
def stzOpcodes : List Byte :=
  [0x64, 0x74, 0x9C, 0x9E]

/-- ADC (43_alu.md R220). -/
def adcOpcodes : List Byte :=
  [0x61, 0x63, 0x65, 0x67, 0x69, 0x6D, 0x6F, 0x71, 0x72, 0x73, 0x75, 0x77, 0x79, 0x7D, 0x7F]

/-- SBC (R221). -/
def sbcOpcodes : List Byte :=
  [0xE1, 0xE3, 0xE5, 0xE7, 0xE9, 0xED, 0xEF, 0xF1, 0xF2, 0xF3, 0xF5, 0xF7, 0xF9, 0xFD, 0xFF]

/-- AND (R222). -/
def andOpcodes : List Byte :=
  [0x21, 0x23, 0x25, 0x27, 0x29, 0x2D, 0x2F, 0x31, 0x32, 0x33, 0x35, 0x37, 0x39, 0x3D, 0x3F]

/-- ORA (R223). -/
def oraOpcodes : List Byte :=
  [0x01, 0x03, 0x05, 0x07, 0x09, 0x0D, 0x0F, 0x11, 0x12, 0x13, 0x15, 0x17, 0x19, 0x1D, 0x1F]

/-- EOR (R224). -/
def eorOpcodes : List Byte :=
  [0x41, 0x43, 0x45, 0x47, 0x49, 0x4D, 0x4F, 0x51, 0x52, 0x53, 0x55, 0x57, 0x59, 0x5D, 0x5F]

/-- CMP (R225). -/
def cmpOpcodes : List Byte :=
  [0xC1, 0xC3, 0xC5, 0xC7, 0xC9, 0xCD, 0xCF, 0xD1, 0xD2, 0xD3, 0xD5, 0xD7, 0xD9, 0xDD, 0xDF]

/-- CPX (R226). -/
def cpxOpcodes : List Byte :=
  [0xE0, 0xE4, 0xEC]

/-- CPY (R227). -/
def cpyOpcodes : List Byte :=
  [0xC0, 0xC4, 0xCC]

/-- BIT (R228). -/
def bitOpcodes : List Byte :=
  [0x24, 0x2C, 0x34, 0x3C, 0x89]

/-- INC on memory (R229). -/
def incOpcodes : List Byte :=
  [0xE6, 0xEE, 0xF6, 0xFE]

/-- DEC on memory (R230). -/
def decOpcodes : List Byte :=
  [0xC6, 0xCE, 0xD6, 0xDE]

/-- ASL on memory (R235). -/
def aslOpcodes : List Byte :=
  [0x06, 0x0E, 0x16, 0x1E]

/-- LSR on memory (R236). -/
def lsrOpcodes : List Byte :=
  [0x46, 0x4E, 0x56, 0x5E]

/-- ROL on memory (R237). -/
def rolOpcodes : List Byte :=
  [0x26, 0x2E, 0x36, 0x3E]

/-- ROR on memory (R238). -/
def rorOpcodes : List Byte :=
  [0x66, 0x6E, 0x76, 0x7E]

/-- TSB (R239). -/
def tsbOpcodes : List Byte :=
  [0x04, 0x0C]

/-- TRB (R240). -/
def trbOpcodes : List Byte :=
  [0x14, 0x1C]

end Sys2Proof.Machine
end

