-- ==== Sys2Proof/Safety.lean ====
section
/-! DEFINITION. The terms the statements are made in: the invariant of the machine, what a byte reads as without a
callback, what two addresses share, and what an instruction keeps. -/

namespace Sys2Proof.Machine

/-- The storage behind an address: two addresses name the same byte when these are equal (20_memory.md R52 to R60). -/
inductive Location where
  | wram (index : Nat)
  | sram (index : Nat)
  | rom (offset : Nat)
  | io (offset : Nat)
  | openBus
deriving DecidableEq, Repr

/-- The location of an address under a scheme; work RAM and save RAM indexes are modulo their sizes (20_memory.md R60). -/
def locate (scheme : Scheme) (address : Addr) : Location :=
  match mapAddress scheme address with
  | (.wram, off) => .wram (off % wramSize)
  | (.sram, off) => .sram (off % sramSize)
  | (.rom, off) => .rom off
  | (.io, off) => .io off
  | (.openBus, _) => .openBus

/-- Whether a location is work RAM or save RAM. -/
def Location.isRam : Location → Bool
  | .wram _ | .sram _ => true
  | .rom _ | .io _ | .openBus => false

/-- The byte an address reads as where that read invokes no callback; none where it would (20_memory.md R60, R65). -/
def Bus.peek (b : Bus) (address : Addr) : Option Byte :=
  match locate b.scheme address with
  | .wram i => some (b.wram.read i)
  | .sram i => some (b.sram.read i)
  | .rom off => some (if off < b.romLen then b.rom.read off else openBusByte)
  | .io off => if b.readsBack off then none else some (ioDefault off)
  | .openBus => some openBusByte

/-- The bus is well formed: its lists are canonical and inside their sizes. -/
def Bus.wf (b : Bus) : Bool :=
  b.wram.wf && b.wram.below wramSize && b.sram.wf && b.sram.below sramSize && b.rom.wf && b.rom.below b.romLen &&
    Handlers.wf b.handlers

/-- P.X = 1 implies X[15:8] = 0 and Y[15:8] = 0 (10_state.md R31). -/
def State.indexWidthInv (s : State) : Prop :=
  flag s.p .x = true → hiByte s.x = 0 ∧ hiByte s.y = 0

/-- The invariant of the machine: the index-width rule of 10_state.md R31, and the bus well formed. -/
def State.Inv (s : State) : Prop := s.indexWidthInv ∧ s.bus.wf = true

/-- What the spec lets the machine reach: from reset, by steps and by calls of the host between steps
(60_exceptions.md R409). -/
inductive Reachable : State → Prop where
  | reset : Reachable State.reset
  | step {s t : State} : Reachable s → Machine.step s = .next t → Reachable t
  | host {s : State} (call : HostCall) : Reachable s → Reachable (call.apply s)

/-- The registers of the CPU but for P, which the flags stand for, and the cycle counter. -/
inductive Reg where
  | a
  | x
  | y
  | sp
  | d
  | pc
  | pbr
  | dbr
  | e
  | waiting
  | stopped
deriving DecidableEq, Repr

/-- The value of a register as a number. -/
def State.reg (s : State) : Reg → Nat
  | .a => s.a.toNat
  | .x => s.x.toNat
  | .y => s.y.toNat
  | .sp => s.sp.toNat
  | .d => s.d.toNat
  | .pc => s.pc.toNat
  | .pbr => s.pbr.toNat
  | .dbr => s.dbr.toNat
  | .e => s.e.toNat
  | .waiting => s.waiting.toNat
  | .stopped => s.stopped.toNat

/-- Every register outside rs and every flag of P outside fs is as before. -/
def Keeps (rs : List Reg) (fs : List Flag) (s t : State) : Prop :=
  (∀ r, r ∉ rs → t.reg r = s.reg r) ∧ (∀ f, f ∉ fs → flag t.p f = flag s.p f)

/-- Between two states no callback of the host was invoked: the record of invocations did not grow (20_memory.md R66). -/
def Quiet (s t : State) : Prop := t.bus.events = s.bus.events

/-- Every byte outside the given addresses' locations reads as before. -/
def MemoryKeptBut (stored : List Addr) (s t : State) : Prop :=
  ∀ a : Addr, (∀ w ∈ stored, locate s.bus.scheme a ≠ locate s.bus.scheme w) → t.bus.peek a = s.bus.peek a

/-- The addresses of a datum of a width: the second is the 24-bit successor of the first (41_addressing.md R148). -/
def bytesAt (w : Width) (address : Addr) : List Addr :=
  match w with
  | .w8 => [address]
  | .w16 => [address, address + 1]

/-- The addresses that a push of n bytes writes: 0x00:S and downwards, S wrapping at 16 bits (46_stack.md R290). -/
def pushedAt (sp : Word) : Nat → List Addr
  | 0 => []
  | n + 1 => mkAddr 0x00 sp :: pushedAt (sp - 1) n

/-- The instruction answers a next state of which φ holds. -/
def Ends (i : Instr) (s : State) (φ : State → Prop) : Prop := ∃ t, exec i s = .next t ∧ φ t

/-- The counter grows by the base and the modifiers of the instruction's row (30_encoding.md R105). -/
def Charged (i : Instr) (facts : CycleFacts) (s t : State) : Prop :=
  t.cycles = s.cycles + charge s (opcodeCycles i.opcode).1 (opcodeCycles i.opcode).2 facts

/-- Z and N as setNZ(v, w) leaves them (10_state.md R35). -/
def NZFrom (w : Width) (v : Word) (t : State) : Prop :=
  (flag t.p .z = true ↔ v.toNat % 2 ^ w.bits = 0) ∧ flag t.p .n = v.getLsbD (w.bits - 1)

/-- A as setA(v) leaves it (10_state.md R33): v at 16 bits; at 8 bits the low byte of v under the old high byte. -/
def AccumulatorIs (v : Word) (s t : State) : Prop :=
  (flag s.p .m = true → loByte t.a = loByte v ∧ hiByte t.a = hiByte s.a) ∧ (flag s.p .m = false → t.a = v)

/-- An index register as setX(v) leaves it (10_state.md R34): v at 16 bits, its low byte under a zero byte at 8. -/
def IndexIs (v : Word) (s : State) (register : Word) : Prop :=
  (flag s.p .x = true → loByte register = loByte v ∧ hiByte register = 0) ∧ (flag s.p .x = false → register = v)

/-- The next n bytes pushed go to the first 8 KiB of bank 0, work RAM under both schemes (20_memory.md R54): the reset
stack is there. -/
def StackInRam (sp : Word) (n : Nat) : Prop := ∀ k, k < n → (sp - BitVec.ofNat 16 k).toNat < 0x2000

/-- The bytes lie on the stack as pushes from sp leave them, the first at 0x00:sp and each next one below
(46_stack.md R290). -/
def OnStack (bytes : List Byte) (sp : Word) (b : Bus) : Prop :=
  ∀ k (h : k < bytes.length), b.peek (mkAddr 0x00 (sp - BitVec.ofNat 16 k)) = some bytes[k]

/-- The bytes of an instruction stand at PBR:PC and above, PC wrapping inside the bank (40_dispatch.md R122), where reading
them invokes no callback. -/
def CodeAt (s : State) (bytes : List Byte) : Prop :=
  ∀ k (h : k < bytes.length), s.bus.peek (mkAddr s.pbr (s.pc + BitVec.ofNat 16 k)) = some bytes[k]

end Sys2Proof.Machine
end

