-- ==== Sys2Proof/Certificates/Slice0/Obligations.lean ====
section
/-! DEFINITION. The statements for the provers: encodings, the step, the bus, interrupts, and every instruction. -/

section

open Sys2Proof Sys2Proof.Machine

/-! Encodings -/

/-- Decoding the bytes of a well-formed instruction gives it back, with what follows them (30_encoding.md R100 to R105). -/
def Obligations.DecodeInvertsEncode : Prop :=
  ∀ (m x : Bool) (i : Instr) (rest : List Byte),
    i.wellFormed m x = true → decode m x (encode i ++ rest) = .ok (i, rest)

/-- What the decoder reads is well formed, and its bytes are the ones read (30_encoding.md R100 to R105). -/
def Obligations.EncodeInvertsDecode : Prop :=
  ∀ (m x : Bool) (bytes : List Byte) (i : Instr) (rest : List Byte),
    decode m x bytes = .ok (i, rest) → i.wellFormed m x = true ∧ encode i ++ rest = bytes

/-- Every opcode value is an instruction of its own, whatever bytes follow; and where it takes a data operand, the decoder
gives it the mode of its row in the opcode map with the operand bytes assembled in order (30_encoding.md R101, R104, R105). -/
def Obligations.EveryOpcodeIsAnInstruction : Prop :=
  ∀ (m x : Bool) (op b1 b2 b3 : Byte),
    let addr := mkWord b2 b1
    let long := mkLong b3 b2 b1
    let rows : List (List Byte × Operand) := [
      ([0x01, 0x21, 0x41, 0x61, 0x81, 0xA1, 0xC1, 0xE1], .mem (.dpIndX b1)),
      ([0x03, 0x23, 0x43, 0x63, 0x83, 0xA3, 0xC3, 0xE3], .mem (.sr b1)),
      ([0x04, 0x14, 0x24, 0x64, 0x84, 0xA4, 0xC4, 0xE4], .mem (.dp b1)),
      ([0x05, 0x25, 0x45, 0x65, 0x85, 0xA5, 0xC5, 0xE5], .mem (.dp b1)),
      ([0x06, 0x26, 0x46, 0x66, 0x86, 0xA6, 0xC6, 0xE6], .mem (.dp b1)),
      ([0x07, 0x27, 0x47, 0x67, 0x87, 0xA7, 0xC7, 0xE7], .mem (.dpIndL b1)),
      ([0x0C, 0x1C, 0x2C, 0x8C, 0x9C, 0xAC, 0xCC, 0xEC], .mem (.abs addr)),
      ([0x0D, 0x2D, 0x4D, 0x6D, 0x8D, 0xAD, 0xCD, 0xED], .mem (.abs addr)),
      ([0x0E, 0x2E, 0x4E, 0x6E, 0x8E, 0xAE, 0xCE, 0xEE], .mem (.abs addr)),
      ([0x0F, 0x2F, 0x4F, 0x6F, 0x8F, 0xAF, 0xCF, 0xEF], .mem (.long long)),
      ([0x11, 0x31, 0x51, 0x71, 0x91, 0xB1, 0xD1, 0xF1], .mem (.dpIndY b1)),
      ([0x12, 0x32, 0x52, 0x72, 0x92, 0xB2, 0xD2, 0xF2], .mem (.dpInd b1)),
      ([0x13, 0x33, 0x53, 0x73, 0x93, 0xB3, 0xD3, 0xF3], .mem (.srIndY b1)),
      ([0x34, 0x74, 0x94, 0xB4], .mem (.dpX b1)),
      ([0x15, 0x35, 0x55, 0x75, 0x95, 0xB5, 0xD5, 0xF5], .mem (.dpX b1)),
      ([0x16, 0x36, 0x56, 0x76, 0xD6, 0xF6], .mem (.dpX b1)),
      ([0x96, 0xB6], .mem (.dpY b1)),
      ([0x17, 0x37, 0x57, 0x77, 0x97, 0xB7, 0xD7, 0xF7], .mem (.dpIndLY b1)),
      ([0x19, 0x39, 0x59, 0x79, 0x99, 0xB9, 0xD9, 0xF9, 0xBE], .mem (.absY addr)),
      ([0x1D, 0x3D, 0x5D, 0x7D, 0x9D, 0xBD, 0xDD, 0xFD], .mem (.absX addr)),
      ([0x3C, 0xBC, 0x1E, 0x3E, 0x5E, 0x7E, 0x9E, 0xDE, 0xFE], .mem (.absX addr)),
      ([0x1F, 0x3F, 0x5F, 0x7F, 0x9F, 0xBF, 0xDF, 0xFF], .mem (.longX long)),
      ([0x09, 0x29, 0x49, 0x69, 0x89, 0xA9, 0xC9, 0xE9], .imm (if m then .byte b1 else .word addr)),
      ([0xA0, 0xA2, 0xC0, 0xE0], .imm (if x then .byte b1 else .word addr))]
    ∃ i rest, decode m x [op, b1, b2, b3] = .ok (i, rest) ∧ i.opcode = op ∧
      (∀ row ∈ rows, op ∈ row.1 → dataOperand i = some row.2) ∧
      ((∀ row ∈ rows, op ∉ row.1) → dataOperand i = none)

/-- The length of the immediate forms follows P.M and P.X; REP, SEP, BRK, COP, WDM take one operand byte and PEA two
(30_encoding.md R102). -/
def Obligations.LengthFollowsWidthFlags : Prop :=
  ∀ (m x : Bool) (i : Instr), i.wellFormed m x = true →
    (i.opcode ∈ ([0x09, 0x29, 0x49, 0x69, 0x89, 0xA9, 0xC9, 0xE9] : List Byte) → (encode i).length = if m then 2 else 3) ∧
    (i.opcode ∈ ([0xA0, 0xA2, 0xC0, 0xE0] : List Byte) → (encode i).length = if x then 2 else 3) ∧
    (i.opcode ∈ ([0xC2, 0xE2, 0x00, 0x02, 0x42] : List Byte) → (encode i).length = 2) ∧
    (i.opcode = 0xF4 → (encode i).length = 3)

/-- Words of every family, written out from the spec's encodings, decode to what they stand for (the examples of
42_load_store_transfer.md R183, R200; 43_alu.md R221, R229; 45_control.md R271, R272; 46_stack.md R307, R308;
47_status_system.md R317, R319; 95_test_vectors.md P1). -/
def Obligations.SpecWordsDecode : Prop :=
  decode true true [0x8D, 0x10, 0x00] = .ok (.staAbs 0x0010, []) ∧
  decode true true [0x54, 0x7F, 0x7E] = .ok (.mvn 0x7F 0x7E, []) ∧
  decode false true [0xE9, 0x01, 0x00] = .ok (.sbcImm (.word 0x0001), []) ∧
  decode true true [0x1A] = .ok (.incAcc, []) ∧
  decode true true [0x5C, 0x00, 0x01, 0x7E] = .ok (.jmlLong 0x7E0100, []) ∧
  decode true true [0x20, 0x00, 0x90] = .ok (.jsrAbs 0x9000, []) ∧
  decode true true [0xF4, 0x34, 0x12] = .ok (.pea 0x1234, []) ∧
  decode true true [0xD4, 0x10] = .ok (.pei 0x10, []) ∧
  decode true true [0xC2, 0x30] = .ok (.rep 0x30, []) ∧
  decode true true [0xFB] = .ok (.xce, []) ∧
  decode false false [0xA9, 0x00, 0x00] = .ok (.ldaImm (.word 0x0000), []) ∧
  decode true false [0xA9, 0x00, 0xAA] = .ok (.ldaImm (.byte 0x00), [0xAA])

/-! The step -/

/-- Where the bytes at PBR:PC are a well-formed instruction's and nothing comes before it, the step is that instruction,
run with PC past its bytes and the wait over (40_dispatch.md R120 to R125). -/
def Obligations.StepRunsDecodedInstruction : Prop :=
  ∀ (s : State) (i : Instr), s.stepKind = .instruction → i.wellFormed (flag s.p .m) (flag s.p .x) = true →
    CodeAt s (encode i) →
    step s = exec i { s with waiting := false, pc := s.pc + BitVec.ofNat 16 (encode i).length }

/-- The order of the step: a stopped CPU idles whatever is pending; else an NMI is served; else an IRQ where P.I is 0;
else a wait with no IRQ line idles; else an instruction runs (40_dispatch.md R120, 60_exceptions.md R403). -/
def Obligations.StepFollowsPriority : Prop :=
  ∀ s : State,
    (s.stopped = true → step s = .next { s with cycles := s.cycles + 1 }) ∧
    (s.stopped = false → s.bus.nmiPending = true → s.stepKind = .service .nmi) ∧
    (s.stopped = false → s.bus.nmiPending = false → s.bus.irqPending = true → flag s.p .i = false →
      s.stepKind = .service .irq) ∧
    (s.stopped = false → s.bus.nmiPending = false → s.bus.irqPending = false → s.waiting = true →
      step s = .next { s with cycles := s.cycles + 1 }) ∧
    (s.stopped = false → s.bus.nmiPending = false → s.bus.irqPending = false → s.waiting = false →
      s.stepKind = .instruction) ∧
    (s.stopped = false → s.bus.nmiPending = false → s.bus.irqPending = true → flag s.p .i = true →
      s.stepKind = .instruction)

/-- A step always gives a next state, and adds at least 1 and at most 9 cycles (40_dispatch.md R128,
70_reset_and_hazards.md R460). -/
def Obligations.EveryStepGivesNextState : Prop :=
  ∀ s : State, ∃ t, step s = .next t ∧ s.cycles + 1 ≤ t.cycles ∧ t.cycles ≤ s.cycles + 9

/-- Every step keeps the invariant: P.X = 1 implies zero high bytes of X and Y (10_state.md R31), and the bus well formed. -/
def Obligations.StepKeepsInvariant : Prop :=
  ∀ s t : State, s.Inv → step s = .next t → t.Inv

/-- The state after reset meets the invariant. -/
def Obligations.ResetMeetsInvariant : Prop := State.reset.Inv

/-- What the host does between steps keeps the invariant (60_exceptions.md R409; log entry 9 lists the calls). -/
def Obligations.HostCallsKeepInvariant : Prop :=
  ∀ (call : HostCall) (s : State), s.Inv → (call.apply s).Inv

/-- In every reachable state P.X = 1 implies X[15:8] = 0 and Y[15:8] = 0, and a step that sets P.X clears both in the same
step, whatever X and Y held (10_state.md R31). -/
def Obligations.IndexWidthInvariant : Prop :=
  (∀ s, Reachable s → flag s.p .x = true → hiByte s.x = 0 ∧ hiByte s.y = 0) ∧
  ∀ s t, step s = .next t → flag s.p .x = false → flag t.p .x = true → hiByte t.x = 0 ∧ hiByte t.y = 0

/-- What a step leaves of the bus: it never changes the ROM image, its length or the scheme; the record of callback
invocations only grows, at its end; and a step that invokes no callback never writes the IRQ line, the handler table or the
host's own state, and writes the NMI request only by clearing it in NMI service (20_memory.md R63, R66, 40_dispatch.md R129;
the record and the host's state are the model's fields, log entry 3). -/
def Obligations.StepHostSide : Prop :=
  (∀ s t : State, step s = .next t →
     t.bus.rom = s.bus.rom ∧ t.bus.romLen = s.bus.romLen ∧ t.bus.scheme = s.bus.scheme) ∧
  (∀ s t : State, step s = .next t → ∃ events, t.bus.events = s.bus.events ++ events) ∧
  (∀ s t : State, step s = .next t → Quiet s t →
     t.bus.irqPending = s.bus.irqPending ∧ t.bus.handlers = s.bus.handlers ∧ t.bus.host = s.bus.host ∧
     t.bus.nmiPending = (if s.stepKind = .service .nmi then false else s.bus.nmiPending))

/-- E is toggled solely by XCE, which takes it from C; stopped is set by STP alone and no step clears it; a wait begins with
WAI alone and lasts only through idle steps (10_state.md R28, R39). -/
def Obligations.ModeAndHaltWriters : Prop :=
  (∀ s t : State, step s = .next t → t.e ≠ s.e →
     s.stepKind = .instruction ∧ s.awake.fetchInstr.1 = .xce ∧ t.e = flag s.p .c) ∧
  (∀ s t : State, step s = .next t →
     (s.stopped = true → t.stopped = true) ∧
     (s.stopped = false → t.stopped = true → s.stepKind = .instruction ∧ s.awake.fetchInstr.1 = .stp) ∧
     (t.waiting = true → (s.waiting = true ∧ s.stepKind = .idle) ∨
       (s.stepKind = .instruction ∧ s.awake.fetchInstr.1 = .wai)))

/-- Which instructions write S, D, PBR and DBR: no others change them (10_state.md R23, R24, R26). -/
def Obligations.BankAndStackWriters : Prop :=
  ∀ (i : Instr) (s t : State), exec i s = .next t →
    (t.d ≠ s.d → i.opcode ∈ ([0x5B, 0x2B] : List Byte)) ∧
    (t.dbr ≠ s.dbr → i.opcode ∈ ([0xAB, 0x54, 0x44] : List Byte)) ∧
    (t.pbr ≠ s.pbr → i.opcode ∈ ([0x5C, 0xDC, 0x22, 0x6B, 0x40, 0x00, 0x02] : List Byte)) ∧
    (t.sp ≠ s.sp → i.opcode ∈ ([0x48, 0xDA, 0x5A, 0x08, 0x8B, 0x0B, 0x4B, 0xF4, 0xD4, 0x62, 0x68, 0xFA, 0x7A, 0x28,
      0xAB, 0x2B, 0x20, 0xFC, 0x22, 0x60, 0x6B, 0x00, 0x02, 0x40, 0x9A, 0x1B, 0xFB] : List Byte))

/-- Which instructions write C, I, D, X, M and V: no others change them (10_state.md R27, its table). -/
def Obligations.FlagWriters : Prop :=
  ∀ (i : Instr) (s t : State), exec i s = .next t →
    i.opcode ∉ ([0x28, 0x40, 0xC2, 0xE2] : List Byte) →
    (flag t.p .c ≠ flag s.p .c → i.opcode ∈ adcOpcodes ++ sbcOpcodes ++ cmpOpcodes ++ cpxOpcodes ++ cpyOpcodes ++
      aslOpcodes ++ lsrOpcodes ++ rolOpcodes ++ rorOpcodes ++ [0x0A, 0x4A, 0x2A, 0x6A, 0x18, 0x38, 0xFB]) ∧
    (flag t.p .i ≠ flag s.p .i → i.opcode ∈ ([0x58, 0x78, 0x00, 0x02] : List Byte)) ∧
    (flag t.p .d ≠ flag s.p .d → i.opcode ∈ ([0xD8, 0xF8] : List Byte)) ∧
    (flag t.p .x ≠ flag s.p .x → i.opcode = 0xFB) ∧
    (flag t.p .m ≠ flag s.p .m → i.opcode = 0xFB) ∧
    (flag t.p .v ≠ flag s.p .v → i.opcode ∈ adcOpcodes ++ sbcOpcodes ++ [0x24, 0x2C, 0x34, 0x3C, 0xB8])

/-! The bus -/

/-- Work RAM in banks 0x7E and 0x7F, its mirror in the low banks, and the I/O window, under both schemes and with bit 23
ignored (20_memory.md R53, R54, R55). -/
def Obligations.WorkRamAndIoDecode : Prop :=
  ∀ (scheme : Scheme) (address : Addr),
    let b := address.toNat / 0x10000 % 0x80
    let a := address.toNat % 0x10000
    (0x7E ≤ b → mapAddress scheme address = (.wram, (b - 0x7E) * 0x10000 + a)) ∧
    (b < 0x40 → a < 0x2000 → mapAddress scheme address = (.wram, a)) ∧
    (b < 0x40 → 0x2000 ≤ a → a < 0x6000 → mapAddress scheme address = (.io, a))

/-- The two schemes' layouts of everything else (20_memory.md R57, R58). -/
def Obligations.SchemeDecode : Prop :=
  ∀ address : Addr,
    let b := address.toNat / 0x10000 % 0x80
    let a := address.toNat % 0x10000
    (b < 0x40 → 0x6000 ≤ a → a < 0x8000 → mapAddress .schemeA address = (.openBus, 0)) ∧
    (b < 0x7E → 0x8000 ≤ a → mapAddress .schemeA address = (.rom, b * 0x8000 + (a - 0x8000))) ∧
    (0x40 ≤ b → b < 0x70 → a < 0x8000 → mapAddress .schemeA address = (.rom, b * 0x8000 + a)) ∧
    (0x70 ≤ b → b < 0x7E → a < 0x8000 → mapAddress .schemeA address = (.sram, (b - 0x70) * 0x8000 + a)) ∧
    (b < 0x20 → 0x6000 ≤ a → a < 0x8000 → mapAddress .schemeB address = (.openBus, 0)) ∧
    (0x20 ≤ b → b < 0x40 → 0x6000 ≤ a → a < 0x8000 →
      mapAddress .schemeB address = (.sram, (b - 0x20) * 0x2000 + (a - 0x6000))) ∧
    (b < 0x40 → 0x8000 ≤ a → mapAddress .schemeB address = (.rom, b * 0x10000 + a)) ∧
    (0x40 ≤ b → b < 0x7E → mapAddress .schemeB address = (.rom, (b - 0x40) * 0x10000 + a))

/-- A byte written to work RAM or save RAM reads back at every address that names it, and every byte at another location
reads as before; a word written where both its bytes are RAM reads back as one word (20_memory.md R60, R61, R62, R74,
R80). -/
def Obligations.RamReadsBack : Prop :=
  ∀ (b : Bus) (a c : Addr) (v : Byte) (w : Word), b.wf = true → (locate b.scheme a).isRam = true →
    (locate b.scheme c = locate b.scheme a → (b.write a v).read c = (v, b.write a v)) ∧
    (locate b.scheme c ≠ locate b.scheme a → (b.write a v).peek c = b.peek c) ∧
    ((locate b.scheme (a + 1)).isRam = true → (b.write16 a w).read16 a = (w, b.write16 a w))

/-- Accesses of several bytes are byte accesses in order, low byte first: at the 24-bit successor for MemRead, MemWrite and
the bus word access, inside the bank for MemReadBank (00_scope.md R9, 20_memory.md R62). -/
def Obligations.MultiByteAccesses : Prop :=
  (∀ (b : Bus) (a : Addr) (v : Word),
     let lo := b.read a
     let hi := lo.2.read (a + 1)
     (a + 1).toNat = (a.toNat + 1) % 0x1000000 ∧
     (b.read16 a).1.toNat = hi.1.toNat * 256 + lo.1.toNat ∧ (b.read16 a).2 = hi.2 ∧
     b.write16 a v = (b.write a (loByte v)).write (a + 1) (hiByte v) ∧
     (b.readAt .w8 a).1.toNat = lo.1.toNat ∧ (b.readAt .w8 a).2 = lo.2 ∧ b.readAt .w16 a = b.read16 a ∧
     b.writeAt .w8 a v = b.write a (loByte v) ∧ b.writeAt .w16 a v = b.write16 a v) ∧
  (∀ (b : Bus) (bank : Byte) (o : Word),
     let b0 := b.read (mkAddr bank o)
     let b1 := b0.2.read (mkAddr bank (o + 1))
     let b2 := b1.2.read (mkAddr bank (o + 2))
     (mkAddr bank (o + 1)).toNat = bank.toNat * 0x10000 + (o.toNat + 1) % 0x10000 ∧
     (mkAddr bank (o + 2)).toNat = bank.toNat * 0x10000 + (o.toNat + 2) % 0x10000 ∧
     (b.readBank2 bank o).1.toNat = b1.1.toNat * 256 + b0.1.toNat ∧ (b.readBank2 bank o).2 = b1.2 ∧
     (b.readBank3 bank o).1.toNat = b2.1.toNat * 0x10000 + b1.1.toNat * 256 + b0.1.toNat ∧ (b.readBank3 bank o).2 = b2.2)

/-- A write to an address that decodes to ROM is discarded, and a read after it returns the pre-write value
(20_memory.md R63). -/
def Obligations.RomIsImmutable : Prop :=
  ∀ (b : Bus) (a : Addr) (v : Byte), (mapAddress b.scheme a).1 = .rom →
    b.write a v = b ∧ ((b.write a v).read a).1 = (b.read a).1

/-- Open bus, a ROM offset past the image and an I/O offset without a callback: reads give the sentinel 0xFF, but for the
two built-in status registers, and writes are discarded (20_memory.md R64, R65, R67, R69). That 0x4210 reads 0x02 is the
model's choice of RDNMI_VERSION, log entry 6: the value 92_eei_decisions.md D20 decides and lets be overridden. -/
def Obligations.OpenBusSentinel : Prop :=
  ∀ (b : Bus) (a : Addr) (v : Byte),
    ((mapAddress b.scheme a).1 = .openBus → b.read a = (0xFF, b) ∧ b.write a v = b) ∧
    ((mapAddress b.scheme a).1 = .rom → b.romLen ≤ (mapAddress b.scheme a).2 → b.read a = (0xFF, b)) ∧
    (∀ off, mapAddress b.scheme a = (.io, off) → b.readsBack off = false →
      b.read a = (if off = 0x4210 then 0x02 else if off = 0x4212 then 0x00 else 0xFF, b)) ∧
    (∀ off, mapAddress b.scheme a = (.io, off) → b.writesBack off = false → b.write a v = b)

/-- An I/O access with a callback: a read answers the callback's byte, and the invocation is recorded with its offset and,
for a write, its value, before anything the callback has invoked itself (20_memory.md R65, R66, R69). -/
def Obligations.CallbacksAnswerAndAreRecorded : Prop :=
  ∀ (b : Bus) (a : Addr) (off : Nat) (v : Byte), mapAddress b.scheme a = (.io, off) →
    (b.readsBack off = true →
      (b.read a).1 = (Config.callback { b with events := b.events ++ [.read off] } (.read off)).byte ∧
      ∃ more, (b.read a).2.events = b.events ++ .read off :: more) ∧
    (b.writesBack off = true → ∃ more, (b.write a v).events = b.events ++ .write off v :: more)

/-- The last registration for an offset wins, as a whole, and leaves every other offset (20_memory.md R68). -/
def Obligations.LastRegistrationWins : Prop :=
  ∀ (b : Bus) (offset : Word) (onRead onWrite : Bool),
    let b' := (HostAction.register offset onRead onWrite).apply b
    b'.readsBack offset.toNat = onRead ∧ b'.writesBack offset.toNat = onWrite ∧
    ∀ other, other ≠ offset.toNat → b'.readsBack other = b.readsBack other ∧ b'.writesBack other = b.writesBack other

/-- The copy service reads and writes byte by byte in ascending order, through the bus (20_memory.md R70). -/
def Obligations.CopyGoesByteByByte : Prop :=
  ∀ (b : Bus) (source dest : Addr) (n : Nat),
    b.dmaCopy source dest 0 = b ∧
    b.dmaCopy source dest (n + 1) =
      (((b.dmaCopy source dest n).read (source + BitVec.ofNat 24 n)).2).write (dest + BitVec.ofNat 24 n)
        ((b.dmaCopy source dest n).read (source + BitVec.ofNat 24 n)).1

/-- CPU.reset: every register at its reset value, both requests cleared, nothing else of the bus touched, and PC from the
vector at 0x00:FFFC unless it reads 0x0000 or 0xFFFF (70_reset_and_hazards.md R450). -/
def Obligations.CpuResetValues : Prop :=
  ∀ s : State, ∃ lo hi, s.bus.peek 0x00FFFC = some lo ∧ s.bus.peek 0x00FFFD = some hi ∧
    s.cpuReset =
      { a := 0x0000, x := 0x0000, y := 0x0000, sp := 0x01FF, d := 0x0000
        pc := if hi.toNat * 256 + lo.toNat = 0x0000 ∨ hi.toNat * 256 + lo.toNat = 0xFFFF then Config.resetFallbackPc
          else BitVec.ofNat 16 (hi.toNat * 256 + lo.toNat)
        pbr := 0x00, dbr := 0x00, p := 0x34, e := true, cycles := 0, waiting := false, stopped := false
        bus := { s.bus with nmiPending := false, irqPending := false } }

/-- Bus.reset zeroes every byte of work RAM and keeps save RAM, ROM, scheme and the handler table (20_memory.md R75). -/
def Obligations.BusResetClearsWorkRam : Prop :=
  ∀ s : State, (∀ i, s.busReset.bus.wram.read i = 0x00) ∧ s.busReset.bus.sram = s.bus.sram ∧
    s.busReset.bus.rom = s.bus.rom ∧ s.busReset.bus.romLen = s.bus.romLen ∧ s.busReset.bus.scheme = s.bus.scheme ∧
    s.busReset.bus.handlers = s.bus.handlers ∧ s.busReset.busReset = s.busReset

/-- Loading a cartridge: the image is what ROM reads, its length is ROM_LEN, the scheme is SchemeB only where the second
header scores strictly more; no register and no RAM changes (20_memory.md R71, R72). -/
def Obligations.CartridgeIsLoaded : Prop :=
  ∀ (s : State) (image : List Byte),
    let t := s.loadCartridge image
    (∀ i, i < image.length → t.bus.rom.read i = image.getD i 0x00) ∧ t.bus.romLen = image.length ∧
    (t.bus.scheme = .schemeB ↔ headerScore image 0x7FC0 < headerScore image 0xFFC0) ∧
    t = { s with bus := { s.bus with rom := t.bus.rom, romLen := t.bus.romLen, scheme := t.bus.scheme } }

/-! Operands -/

/-- Direct page and stack relative modes: a 16-bit sum in bank 0. Absolute and long modes: a 24-bit sum, and the page-cross
indicator from the 16-bit base (41_addressing.md R142, R143, R144, R151 to R156). -/
def Obligations.DirectModes : Prop :=
  (∀ (s : State) (off : Byte),
     ((AddrMode.dp off).resolve s).ea.toNat = (s.d.toNat + off.toNat) % 0x10000 ∧
     ((AddrMode.dpX off).resolve s).ea.toNat = (s.d.toNat + off.toNat + s.getX.toNat) % 0x10000 ∧
     ((AddrMode.dpY off).resolve s).ea.toNat = (s.d.toNat + off.toNat + s.getY.toNat) % 0x10000 ∧
     ((AddrMode.sr off).resolve s).ea.toNat = (s.sp.toNat + off.toNat) % 0x10000) ∧
  (∀ (s : State) (addr : Word) (long : Addr),
     ((AddrMode.abs addr).resolve s).ea.toNat = s.dbr.toNat * 0x10000 + addr.toNat ∧
     ((AddrMode.absX addr).resolve s).ea.toNat = (s.dbr.toNat * 0x10000 + addr.toNat + s.getX.toNat) % 0x1000000 ∧
     ((AddrMode.absY addr).resolve s).ea.toNat = (s.dbr.toNat * 0x10000 + addr.toNat + s.getY.toNat) % 0x1000000 ∧
     ((AddrMode.long long).resolve s).ea = long ∧
     ((AddrMode.longX long).resolve s).ea.toNat = (long.toNat + s.getX.toNat) % 0x1000000 ∧
     (((AddrMode.absX addr).resolve s).crossed = true ↔ (addr.toNat + s.getX.toNat) / 256 ≠ addr.toNat / 256) ∧
     (((AddrMode.absY addr).resolve s).crossed = true ↔ (addr.toNat + s.getY.toNat) / 256 ≠ addr.toNat / 256))

/-- Indirect modes: the pointer is read in bank 0, 16-bit pointers taken in bank DBR, 24-bit ones whole, the index added
after; the bus is as those reads leave it (41_addressing.md R145, R146, R147, R149, R150, R157). -/
def Obligations.IndirectModes : Prop :=
  ∀ (s : State) (off : Byte) (p : Word),
    let ptr := s.bus.readBank2 0x00 p
    let far := s.bus.readBank3 0x00 p
    (p.toNat = (s.d.toNat + off.toNat) % 0x10000 →
      ((AddrMode.dpInd off).resolve s).ea.toNat = s.dbr.toNat * 0x10000 + ptr.1.toNat ∧
      ((AddrMode.dpInd off).resolve s).bus = ptr.2 ∧
      ((AddrMode.dpIndY off).resolve s).ea.toNat = (s.dbr.toNat * 0x10000 + ptr.1.toNat + s.getY.toNat) % 0x1000000 ∧
      ((AddrMode.dpIndY off).resolve s).bus = ptr.2 ∧
      (((AddrMode.dpIndY off).resolve s).crossed = true ↔ (ptr.1.toNat + s.getY.toNat) / 256 ≠ ptr.1.toNat / 256) ∧
      ((AddrMode.dpIndL off).resolve s).ea = far.1 ∧ ((AddrMode.dpIndL off).resolve s).bus = far.2 ∧
      ((AddrMode.dpIndLY off).resolve s).ea.toNat = (far.1.toNat + s.getY.toNat) % 0x1000000 ∧
      ((AddrMode.dpIndLY off).resolve s).bus = far.2) ∧
    (p.toNat = (s.d.toNat + off.toNat + s.getX.toNat) % 0x10000 →
      ((AddrMode.dpIndX off).resolve s).ea.toNat = s.dbr.toNat * 0x10000 + ptr.1.toNat ∧
      ((AddrMode.dpIndX off).resolve s).bus = ptr.2) ∧
    (p.toNat = (s.sp.toNat + off.toNat) % 0x10000 →
      ((AddrMode.srIndY off).resolve s).ea.toNat = (s.dbr.toNat * 0x10000 + ptr.1.toNat + s.getY.toNat) % 0x1000000 ∧
      ((AddrMode.srIndY off).resolve s).bus = ptr.2)

/-- The widths, the accesses to A, X and Y at them, setNZ and the whole-status write setP (10_state.md R32 to R36). -/
def Obligations.RegisterWidths : Prop :=
  (∀ s : State,
     s.wM.bits = (if flag s.p .m = true then 8 else 16) ∧ s.wX.bits = (if flag s.p .x = true then 8 else 16) ∧
     s.getA.toNat = s.a.toNat % 2 ^ s.wM.bits ∧ s.getX.toNat = s.x.toNat % 2 ^ s.wX.bits ∧
     s.getY.toNat = s.y.toNat % 2 ^ s.wX.bits) ∧
  (∀ w : Width, w.mask.toNat = 2 ^ w.bits - 1 ∧ w.sign.toNat = 2 ^ (w.bits - 1)) ∧
  (∀ (s : State) (v : Word), AccumulatorIs v s (s.setA v) ∧ s.setA v = { s with a := (s.setA v).a } ∧
     IndexIs v s (s.setX v).x ∧ s.setX v = { s with x := (s.setX v).x } ∧
     IndexIs v s (s.setY v).y ∧ s.setY v = { s with y := (s.setY v).y }) ∧
  (∀ (s : State) (w : Width) (v : Word), NZFrom w v (s.setNZ w v) ∧ Keeps [] [.z, .n] s (s.setNZ w v) ∧
     s.setNZ w v = { s with p := (s.setNZ w v).p }) ∧
  (∀ (s : State) (v : Byte), (s.setP v).p = v ∧
     (flag v .x = true → (s.setP v).x.toNat = s.x.toNat % 256 ∧ (s.setP v).y.toNat = s.y.toNat % 256) ∧
     (flag v .x = false → (s.setP v).x = s.x ∧ (s.setP v).y = s.y) ∧
     s.setP v = { s with p := v, x := (s.setP v).x, y := (s.setP v).y })

/-- An operand in memory is read at its width at the effective address after its pointer; an immediate is itself, with no
access; the modes without a pointer access nothing (41_addressing.md R141, R148). -/
def Obligations.OperandReadAtWidth : Prop :=
  (∀ (s : State) (mode : AddrMode) (w : Width) (b : Byte) (v : Word),
     let r := mode.resolve s
     ((Operand.mem mode).read s w).value = (r.bus.readAt w r.ea).1 ∧
     ((Operand.mem mode).read s w).bus = (r.bus.readAt w r.ea).2 ∧ ((Operand.mem mode).read s w).crossed = r.crossed ∧
     ((Operand.imm (.byte b)).read s .w8).value.toNat = b.toNat ∧ ((Operand.imm (.word v)).read s .w16).value = v ∧
     ((Operand.imm (.byte b)).read s .w8).bus = s.bus ∧ ((Operand.imm (.word v)).read s .w16).bus = s.bus) ∧
  (∀ (s : State) (off : Byte) (addr : Word) (long : Addr) (mode : AddrMode),
     mode ∈ [AddrMode.dp off, .dpX off, .dpY off, .abs addr, .absX addr, .absY addr, .long long, .longX long, .sr off] →
     (mode.resolve s).bus = s.bus)

/-! Loads, stores, transfers -/

/-- LDA, LDX and LDY in every mode: A at width wM, X or Y at width wX, N and Z at that width, nothing else
(42_load_store_transfer.md R180, R181, R182). -/
def Obligations.Loads : Prop :=
  (∀ (i : Instr) (s : State) (o : Operand), i.opcode ∈ ldaOpcodes → dataOperand i = some o →
     let r := o.read s s.wM
     Ends i s fun t => AccumulatorIs r.value s t ∧ NZFrom s.wM r.value t ∧ Keeps [.a] [.z, .n] s t ∧ t.bus = r.bus ∧
       Charged i { crossed := r.crossed } s t) ∧
  (∀ (i : Instr) (s : State) (o : Operand), dataOperand i = some o →
     let r := o.read s s.wX
     (i.opcode ∈ ldxOpcodes → Ends i s fun t => IndexIs r.value s t.x ∧ NZFrom s.wX r.value t ∧ Keeps [.x] [.z, .n] s t ∧
       t.bus = r.bus ∧ Charged i { crossed := r.crossed } s t) ∧
     (i.opcode ∈ ldyOpcodes → Ends i s fun t => IndexIs r.value s t.y ∧ NZFrom s.wX r.value t ∧ Keeps [.y] [.z, .n] s t ∧
       t.bus = r.bus ∧ Charged i { crossed := r.crossed } s t))

/-- STA, STX, STY and STZ in every mode: the register's value (zero for STZ) written at its width at the effective
address, no register and no flag changed (42_load_store_transfer.md R183 to R186). -/
def Obligations.Stores : Prop :=
  ∀ (i : Instr) (s : State) (mode : AddrMode), dataOperand i = some (.mem mode) →
    let r := mode.resolve s
    let done := fun (w : Width) (v : Word) (t : State) =>
      t.bus = r.bus.writeAt w r.ea v ∧ Keeps [] [] s t ∧ t.p = s.p ∧ Charged i {} s t
    (i.opcode ∈ staOpcodes → Ends i s (done s.wM s.a)) ∧ (i.opcode ∈ stxOpcodes → Ends i s (done s.wX s.x)) ∧
    (i.opcode ∈ styOpcodes → Ends i s (done s.wX s.y)) ∧ (i.opcode ∈ stzOpcodes → Ends i s (done s.wM 0x0000))

/-- TAX, TAY, TXA, TYA, TXY, TYX, TSX: the whole source at the destination's width, N and Z at that width. TCD, TDC, TSC
move 16 bits whatever P.M is; XBA swaps the bytes of A, N and Z from the new low byte; TXS and TCS set no flag and force page
1 where E = 1 (42_load_store_transfer.md R187 to R199). -/
def Obligations.Transfers : Prop :=
  (∀ s : State,
     let done := fun (i : Instr) (r : Reg) (w : Width) (v : Word) (t : State) =>
       NZFrom w v t ∧ Keeps [r] [.z, .n] s t ∧ t.bus = s.bus ∧ t.cycles = s.cycles + 2 ∧ Charged i {} s t
     Ends .tax s (fun t => IndexIs s.a s t.x ∧ done .tax .x s.wX s.a t) ∧
     Ends .tay s (fun t => IndexIs s.a s t.y ∧ done .tay .y s.wX s.a t) ∧
     Ends .txy s (fun t => IndexIs s.x s t.y ∧ done .txy .y s.wX s.x t) ∧
     Ends .tyx s (fun t => IndexIs s.y s t.x ∧ done .tyx .x s.wX s.y t) ∧
     Ends .tsx s (fun t => IndexIs s.sp s t.x ∧ done .tsx .x s.wX s.sp t) ∧
     Ends .txa s (fun t => AccumulatorIs s.x s t ∧ done .txa .a s.wM s.x t) ∧
     Ends .tya s (fun t => AccumulatorIs s.y s t ∧ done .tya .a s.wM s.y t)) ∧
  (∀ s : State,
     Ends .tcd s (fun t => t.d = s.a ∧ NZFrom .w16 s.a t ∧ Keeps [.d] [.z, .n] s t ∧ t.bus = s.bus ∧
       t.cycles = s.cycles + 2) ∧
     Ends .tdc s (fun t => t.a = s.d ∧ NZFrom .w16 s.d t ∧ Keeps [.a] [.z, .n] s t ∧ t.bus = s.bus ∧
       t.cycles = s.cycles + 2) ∧
     Ends .tsc s (fun t => t.a = s.sp ∧ NZFrom .w16 s.sp t ∧ Keeps [.a] [.z, .n] s t ∧ t.bus = s.bus ∧
       t.cycles = s.cycles + 2) ∧
     Ends .xba s (fun t => loByte t.a = hiByte s.a ∧ hiByte t.a = loByte s.a ∧ NZFrom .w8 t.a t ∧ Keeps [.a] [.z, .n] s t ∧
       t.bus = s.bus ∧ t.cycles = s.cycles + 3) ∧
     Ends .txs s (fun t => t.sp.toNat = (if s.e then 0x0100 + s.x.toNat % 256 else s.x.toNat) ∧ Keeps [.sp] [] s t ∧
       t.bus = s.bus ∧ t.cycles = s.cycles + 2) ∧
     Ends .tcs s (fun t => t.sp.toNat = (if s.e then 0x0100 + s.a.toNat % 256 else s.a.toNat) ∧ Keeps [.sp] [] s t ∧
       t.bus = s.bus ∧ t.cycles = s.cycles + 2))

/-- MVN and MVP: one byte from srcbank:X to dstbank:Y, DBR, X and Y moved on at width wX, the 16-bit count in A down by one,
and PC back at the opcode until the count has passed zero (42_load_store_transfer.md R200, R201). -/
def Obligations.BlockMoves : Prop :=
  ∀ (s : State) (dst src : Byte),
    let b := s.bus.read (mkAddr src s.getX)
    let done := fun (d : Nat) (t : State) =>
      t.bus = b.2.write (mkAddr dst s.getY) b.1 ∧ t.dbr = dst ∧ t.a.toNat = (s.a.toNat + 0xFFFF) % 0x10000 ∧
      t.x.toNat = (s.getX.toNat + d) % 2 ^ s.wX.bits ∧ t.y.toNat = (s.getY.toNat + d) % 2 ^ s.wX.bits ∧
      t.pc.toNat = (if s.a = 0x0000 then s.pc.toNat else (s.pc.toNat + 0xFFFD) % 0x10000) ∧
      Keeps [.a, .x, .y, .dbr, .pc] [] s t ∧ t.cycles = s.cycles + 7
    Ends (.mvn dst src) s (done 1) ∧ Ends (.mvp dst src) s (done 0xFFFF)

/-! Arithmetic and logic -/

/-- ADC in every mode, in binary whatever P.D is: the sum at width wM, C from the carry out, V by the sign-mismatch
formula, N and Z (43_alu.md R220, R250, R251). -/
def Obligations.AddWithCarry : Prop :=
  ∀ (i : Instr) (s : State) (o : Operand), i.opcode ∈ adcOpcodes → dataOperand i = some o →
    let r := o.read s s.wM
    let sum := s.getA.toNat + r.value.toNat + (flag s.p .c).toNat
    let res := BitVec.ofNat 16 (sum % 2 ^ s.wM.bits)
    Ends i s fun t => AccumulatorIs res s t ∧ NZFrom s.wM res t ∧ (flag t.p .c = true ↔ 2 ^ s.wM.bits - 1 < sum) ∧
      (flag t.p .v = true ↔ s.wM.msb s.getA ≠ s.wM.msb res ∧ s.wM.msb r.value ≠ s.wM.msb res) ∧
      Keeps [.a] [.c, .z, .v, .n] s t ∧ t.bus = r.bus ∧ Charged i { crossed := r.crossed } s t

/-- SBC in every mode, in binary whatever P.D is: the difference less the borrow at width wM, C where no borrow, V by the
formula on the inverted operand, N and Z (43_alu.md R221, R250, R251). -/
def Obligations.SubtractWithBorrow : Prop :=
  ∀ (i : Instr) (s : State) (o : Operand), i.opcode ∈ sbcOpcodes → dataOperand i = some o →
    let r := o.read s s.wM
    let borrow := 1 - (flag s.p .c).toNat
    let res := BitVec.ofNat 16 ((s.getA.toNat + 2 ^ s.wM.bits - r.value.toNat - borrow) % 2 ^ s.wM.bits)
    Ends i s fun t => AccumulatorIs res s t ∧ NZFrom s.wM res t ∧
      (flag t.p .c = true ↔ r.value.toNat + borrow ≤ s.getA.toNat) ∧
      (flag t.p .v = true ↔ s.wM.msb s.getA ≠ s.wM.msb res ∧ s.wM.msb r.value = s.wM.msb res) ∧
      Keeps [.a] [.c, .z, .v, .n] s t ∧ t.bus = r.bus ∧ Charged i { crossed := r.crossed } s t

/-- AND, ORA, EOR in every mode (43_alu.md R222, R223, R224). -/
def Obligations.Logic : Prop :=
  ∀ (i : Instr) (s : State) (o : Operand), dataOperand i = some o →
    let r := o.read s s.wM
    let done := fun (res : Word) (t : State) =>
      AccumulatorIs res s t ∧ NZFrom s.wM res t ∧ Keeps [.a] [.z, .n] s t ∧ t.bus = r.bus ∧
      Charged i { crossed := r.crossed } s t
    (i.opcode ∈ andOpcodes → Ends i s (done (s.getA &&& r.value))) ∧
    (i.opcode ∈ oraOpcodes → Ends i s (done (s.getA ||| r.value))) ∧
    (i.opcode ∈ eorOpcodes → Ends i s (done (s.getA ^^^ r.value)))

/-- CMP, CPX, CPY in every mode: C where the register is not below the operand, N and Z from the difference at the width,
V and every register unchanged (43_alu.md R225, R226, R227, R252). -/
def Obligations.Compares : Prop :=
  ∀ (i : Instr) (s : State) (o : Operand), dataOperand i = some o →
    let done := fun (w : Width) (reg : Word) (t : State) =>
      let r := o.read s w
      (flag t.p .c = true ↔ r.value.toNat ≤ reg.toNat) ∧
      NZFrom w (BitVec.ofNat 16 ((reg.toNat + 2 ^ w.bits - r.value.toNat) % 2 ^ w.bits)) t ∧
      Keeps [] [.c, .z, .n] s t ∧ t.bus = r.bus ∧ Charged i { crossed := r.crossed } s t
    (i.opcode ∈ cmpOpcodes → Ends i s (done s.wM s.getA)) ∧ (i.opcode ∈ cpxOpcodes → Ends i s (done s.wX s.getX)) ∧
    (i.opcode ∈ cpyOpcodes → Ends i s (done s.wX s.getY))

/-- BIT: Z from A and the operand; N and V from the operand's top two bits except in the immediate form, which changes only
Z (43_alu.md R228). -/
def Obligations.BitTest : Prop :=
  ∀ (i : Instr) (s : State) (o : Operand), i.opcode ∈ bitOpcodes → dataOperand i = some o →
    let r := o.read s s.wM
    Ends i s fun t => (flag t.p .z = true ↔ s.getA &&& r.value = 0) ∧
      (i.opcode = 0x89 → Keeps [] [.z] s t) ∧
      (i.opcode ≠ 0x89 → flag t.p .n = s.wM.msb r.value ∧ flag t.p .v = r.value.getLsbD (s.wM.bits - 2) ∧
        Keeps [] [.z, .n, .v] s t) ∧
      t.bus = r.bus ∧ Charged i { crossed := r.crossed } s t

/-- INC A, DEC A, INX, INY, DEX, DEY: one up or down at the register's width, N and Z. ASL, LSR, ROL, ROR on the
accumulator: the shifted value at width wM, C from the bit shifted out, N and Z (43_alu.md R229 to R238). -/
def Obligations.RegisterIncrementsAndShifts : Prop :=
  (∀ s : State,
     let up := fun (w : Width) (v : Word) => BitVec.ofNat 16 ((v.toNat + 1) % 2 ^ w.bits)
     let down := fun (w : Width) (v : Word) => BitVec.ofNat 16 ((v.toNat + 2 ^ w.bits - 1) % 2 ^ w.bits)
     let done := fun (r : Reg) (w : Width) (v : Word) (t : State) =>
       NZFrom w v t ∧ Keeps [r] [.z, .n] s t ∧ t.bus = s.bus ∧ t.cycles = s.cycles + 2
     Ends .incAcc s (fun t => AccumulatorIs (up s.wM s.getA) s t ∧ done .a s.wM (up s.wM s.getA) t) ∧
     Ends .decAcc s (fun t => AccumulatorIs (down s.wM s.getA) s t ∧ done .a s.wM (down s.wM s.getA) t) ∧
     Ends .inx s (fun t => t.x = up s.wX s.getX ∧ done .x s.wX (up s.wX s.getX) t) ∧
     Ends .iny s (fun t => t.y = up s.wX s.getY ∧ done .y s.wX (up s.wX s.getY) t) ∧
     Ends .dex s (fun t => t.x = down s.wX s.getX ∧ done .x s.wX (down s.wX s.getX) t) ∧
     Ends .dey s (fun t => t.y = down s.wX s.getY ∧ done .y s.wX (down s.wX s.getY) t)) ∧
  (∀ s : State,
     let v := s.getA.toNat
     let top := 2 ^ (s.wM.bits - 1)
     let c := (flag s.p .c).toNat
     let done := fun (res : Nat) (out : Bool) (t : State) =>
       AccumulatorIs (BitVec.ofNat 16 res) s t ∧ NZFrom s.wM (BitVec.ofNat 16 res) t ∧ flag t.p .c = out ∧
       Keeps [.a] [.c, .z, .n] s t ∧ t.bus = s.bus ∧ t.cycles = s.cycles + 2
     Ends .aslAcc s (done (2 * v % (2 * top)) (decide (top ≤ v))) ∧
     Ends .lsrAcc s (done (v / 2) (decide (v % 2 = 1))) ∧
     Ends .rolAcc s (done ((2 * v + c) % (2 * top)) (decide (top ≤ v))) ∧
     Ends .rorAcc s (done (v / 2 + c * top) (decide (v % 2 = 1))))

/-- INC, DEC, ASL, LSR, ROL, ROR on memory: every byte read at the effective address before any is written back there, at
width wM, the flags as for the accumulator. TSB and TRB: Z from A and the old value; the bits of A set in, or cleared from,
the operand (43_alu.md R229, R230, R235 to R240, R253). -/
def Obligations.ReadModifyWrites : Prop :=
  (∀ (i : Instr) (s : State) (mode : AddrMode), dataOperand i = some (.mem mode) →
     let r := mode.resolve s
     let m := r.bus.readAt s.wM r.ea
     let v := m.1.toNat
     let top := 2 ^ (s.wM.bits - 1)
     let c := (flag s.p .c).toNat
     let done := fun (res : Nat) (fs : List Flag) (t : State) =>
       t.bus = m.2.writeAt s.wM r.ea (BitVec.ofNat 16 res) ∧ NZFrom s.wM (BitVec.ofNat 16 res) t ∧ Keeps [] fs s t ∧
       Charged i {} s t
     (i.opcode ∈ incOpcodes → Ends i s (done ((v + 1) % (2 * top)) [.z, .n])) ∧
     (i.opcode ∈ decOpcodes → Ends i s (done ((v + 2 * top - 1) % (2 * top)) [.z, .n])) ∧
     (i.opcode ∈ aslOpcodes → Ends i s fun t => done (2 * v % (2 * top)) [.c, .z, .n] t ∧ flag t.p .c = decide (top ≤ v)) ∧
     (i.opcode ∈ lsrOpcodes → Ends i s fun t => done (v / 2) [.c, .z, .n] t ∧ flag t.p .c = decide (v % 2 = 1)) ∧
     (i.opcode ∈ rolOpcodes → Ends i s fun t => done ((2 * v + c) % (2 * top)) [.c, .z, .n] t ∧
       flag t.p .c = decide (top ≤ v)) ∧
     (i.opcode ∈ rorOpcodes → Ends i s fun t => done (v / 2 + c * top) [.c, .z, .n] t ∧ flag t.p .c = decide (v % 2 = 1))) ∧
  (∀ (i : Instr) (s : State) (mode : AddrMode), dataOperand i = some (.mem mode) →
     let r := mode.resolve s
     let m := r.bus.readAt s.wM r.ea
     let done := fun (res : Word) (t : State) =>
       t.bus = m.2.writeAt s.wM r.ea res ∧ (flag t.p .z = true ↔ s.getA &&& m.1 = 0) ∧ Keeps [] [.z] s t ∧ Charged i {} s t
     (i.opcode ∈ tsbOpcodes → Ends i s (done (m.1 ||| s.getA))) ∧
     (i.opcode ∈ trbOpcodes → Ends i s (done (m.1 &&& (s.getA ^^^ s.wM.mask)))))

/-! Control flow -/

/-- The conditional branches: taken on their flag, to the signed offset from the next instruction inside the bank, with
one cycle more where taken and one more again where taken across a page with E = 1 (45_control.md R260 to R267, R280,
70_reset_and_hazards.md R467). -/
def Obligations.ConditionalBranches : Prop :=
  ∀ (s : State) (off : Byte) (i : Instr) (f : Flag) (want : Bool),
    (i, f, want) ∈ [(.bpl off, Flag.n, false), (.bmi off, .n, true), (.bvc off, .v, false), (.bvs off, .v, true),
      (.bcc off, .c, false), (.bcs off, .c, true), (.bne off, .z, false), (.beq off, .z, true)] →
    Ends i s fun t => Keeps [.pc] [] s t ∧ t.bus = s.bus ∧
      (flag s.p f = want → (t.pc.toNat : Int) = ((s.pc.toNat : Int) + off.toInt) % 0x10000 ∧
        t.cycles = s.cycles + 3 + (if s.e = true ∧ t.pc.toNat / 256 ≠ s.pc.toNat / 256 then 1 else 0)) ∧
      (flag s.p f ≠ want → t.pc = s.pc ∧ t.cycles = s.cycles + 2)

/-- BRA, BRL, JMP abs and JML long: the target, PBR only by JML. JMP (abs), JMP (abs,X) and JML [abs]: the pointer from
bank 0, from bank PBR, and three bytes from bank 0, the offset wrapping inside the bank (41_addressing.md R162, R163, R164,
45_control.md R268 to R271). -/
def Obligations.Jumps : Prop :=
  (∀ (s : State) (off : Byte) (rel addr : Word) (long : Addr),
     Ends (.bra off) s (fun t => (t.pc.toNat : Int) = ((s.pc.toNat : Int) + off.toInt) % 0x10000 ∧ Keeps [.pc] [] s t ∧
       t.bus = s.bus ∧ t.cycles = s.cycles + 3 + (if s.e = true ∧ t.pc.toNat / 256 ≠ s.pc.toNat / 256 then 1 else 0)) ∧
     Ends (.brl rel) s (fun t => t.pc.toNat = (s.pc.toNat + rel.toNat) % 0x10000 ∧ Keeps [.pc] [] s t ∧ t.bus = s.bus ∧
       t.cycles = s.cycles + 4) ∧
     Ends (.jmpAbs addr) s (fun t => t.pc = addr ∧ Keeps [.pc] [] s t ∧ t.bus = s.bus ∧ t.cycles = s.cycles + 3) ∧
     Ends (.jmlLong long) s (fun t => t.pbr.toNat = long.toNat / 0x10000 ∧ t.pc.toNat = long.toNat % 0x10000 ∧
       Keeps [.pc, .pbr] [] s t ∧ t.bus = s.bus ∧ t.cycles = s.cycles + 4)) ∧
  (∀ (s : State) (addr : Word),
     Ends (.jmpInd addr) s (fun t => (t.pc, t.bus) = s.bus.readBank2 0x00 addr ∧ Keeps [.pc] [] s t ∧
       t.cycles = s.cycles + 5) ∧
     Ends (.jmpIndX addr) s (fun t => Keeps [.pc] [] s t ∧ t.cycles = s.cycles + 6 ∧
       ∀ q : Word, q.toNat = (addr.toNat + s.getX.toNat) % 0x10000 → (t.pc, t.bus) = s.bus.readBank2 s.pbr q) ∧
     Ends (.jmlInd addr) s (fun t => Keeps [.pc, .pbr] [] s t ∧ t.cycles = s.cycles + 6 ∧
       t.pc.toNat = (s.bus.readBank3 0x00 addr).1.toNat % 0x10000 ∧
       t.pbr.toNat = (s.bus.readBank3 0x00 addr).1.toNat / 0x10000 ∧ t.bus = (s.bus.readBank3 0x00 addr).2))

/-- JSR abs, JSL and JSR (abs,X): the offset of the last byte of the instruction pushed (below PBR for JSL), then the jump;
JSR (abs,X) reads its pointer after the push, in bank PBR. RTS and RTL: PC one past the pulled offset, and for RTL the bank
pulled above it (45_control.md R272 to R275). -/
def Obligations.CallsAndReturns : Prop :=
  (∀ (s : State) (addr : Word) (long : Addr),
     Ends (.jsrAbs addr) s (fun t => t.pc = addr ∧ t.sp = s.sp - 2 ∧ t.bus = (s.push16 (s.pc - 1)).bus ∧
       Keeps [.pc, .sp] [] s t ∧ t.cycles = s.cycles + 6) ∧
     Ends (.jsl long) s (fun t => t.pbr = long.bank ∧ t.pc = long.offset ∧ t.sp = s.sp - 3 ∧
       t.bus = ((s.push8 s.pbr).push16 (s.pc - 1)).bus ∧ Keeps [.pc, .pbr, .sp] [] s t ∧ t.cycles = s.cycles + 8) ∧
     Ends (.jsrIndX addr) s (fun t => t.sp = s.sp - 2 ∧ Keeps [.pc, .sp] [] s t ∧ t.cycles = s.cycles + 8 ∧
       ∀ q : Word, q.toNat = (addr.toNat + s.getX.toNat) % 0x10000 →
         (t.pc, t.bus) = (s.push16 (s.pc - 1)).bus.readBank2 s.pbr q)) ∧
  (∀ s : State,
     Ends .rts s (fun t => t.sp = s.sp + 2 ∧ Keeps [.pc, .sp] [] s t ∧ t.cycles = s.cycles + 6 ∧
       t.pc.toNat = (s.pop16.1.toNat + 1) % 0x10000 ∧ t.bus = s.pop16.2.bus) ∧
     Ends .rtl s (fun t => t.sp = s.sp + 3 ∧ Keeps [.pc, .pbr, .sp] [] s t ∧ t.cycles = s.cycles + 6 ∧
       t.pc.toNat = (s.pop16.1.toNat + 1) % 0x10000 ∧ t.pbr = s.pop16.2.pop8.1 ∧ t.bus = s.pop16.2.pop8.2.bus))

/-! Interrupts -/

/-- NMI and IRQ service: PBR, PC (high byte first) and P pushed, I set, an NMI's request cleared and the IRQ line left, PC
from the vector of the current E in bank 0, PBR zeroed, 7 cycles, the wait over (60_exceptions.md R404, R405, R416). -/
def Obligations.InterruptEntry : Prop :=
  ∀ (s : State) (kind : Interrupt) (vector : Word), s.stepKind = .service kind →
    ((kind = .nmi ∧ vector = (if s.e then 0xFFFA else 0xFFEA)) ∨
      (kind = .irq ∧ vector = (if s.e then 0xFFFE else 0xFFEE))) →
    ∃ t lo hi, step s = .next t ∧
      s.bus.peek (mkAddr 0x00 vector) = some lo ∧ s.bus.peek (mkAddr 0x00 (vector + 1)) = some hi ∧
      t.pc.toNat = hi.toNat * 256 + lo.toNat ∧ t.pbr = 0x00 ∧ t.sp = s.sp - 4 ∧ flag t.p .i = true ∧ t.waiting = false ∧
      Keeps [.sp, .pc, .pbr, .waiting] [.i] s t ∧ t.cycles = s.cycles + 7 ∧
      t.bus = (let b := (((s.push8 s.pbr).push16 s.pc).push8 s.p).bus
        if kind = .nmi then { b with nmiPending := false } else b) ∧
      (s.bus.wf = true → StackInRam s.sp 4 →
        OnStack [s.pbr, hiByte s.pc, loByte s.pc, s.p] s.sp t.bus ∧ MemoryKeptBut (pushedAt s.sp 4) s t ∧ Quiet s t ∧
        t.bus.irqPending = s.bus.irqPending ∧
        t.bus.nmiPending = (if kind = .nmi then false else s.bus.nmiPending))

/-- BRK and COP: the same entry with their own vectors, P pushed as it is with no break bit, 7 cycles and one more where
E = 0 (45_control.md R276, R277). -/
def Obligations.SoftwareInterruptEntry : Prop :=
  ∀ (s : State) (sig : Byte) (i : Instr) (vector : Word),
    ((i = .brk sig ∧ vector = (if s.e then 0xFFFE else 0xFFE6)) ∨
      (i = .cop sig ∧ vector = (if s.e then 0xFFF4 else 0xFFE4))) →
    Ends i s fun t => ∃ lo hi,
      s.bus.peek (mkAddr 0x00 vector) = some lo ∧ s.bus.peek (mkAddr 0x00 (vector + 1)) = some hi ∧
      t.pc.toNat = hi.toNat * 256 + lo.toNat ∧ t.pbr = 0x00 ∧ t.sp = s.sp - 4 ∧ flag t.p .i = true ∧
      Keeps [.sp, .pc, .pbr] [.i] s t ∧ t.cycles = s.cycles + (if s.e then 7 else 8) ∧
      t.bus = (((s.push8 s.pbr).push16 s.pc).push8 s.p).bus ∧
      (s.bus.wf = true → StackInRam s.sp 4 →
        OnStack [s.pbr, hiByte s.pc, loByte s.pc, s.p] s.sp t.bus ∧ MemoryKeptBut (pushedAt s.sp 4) s t)

/-- RTI: P, PC and PBR pulled in that order in both modes, the high bytes of X and Y cleared where the pulled P.X is 1, E
unchanged (45_control.md R278, 10_state.md R36). -/
def Obligations.ReturnFromInterrupt : Prop :=
  ∀ s : State, Ends .rti s fun t =>
    let p := s.pop8
    let pc := p.2.pop16
    let bank := pc.2.pop8
    t.p = p.1 ∧ t.pc = pc.1 ∧ t.pbr = bank.1 ∧ t.bus = bank.2.bus ∧ t.sp = s.sp + 4 ∧
    Keeps [.sp, .pc, .pbr, .x, .y] [.c, .z, .i, .d, .x, .m, .v, .n] s t ∧
    (flag t.p .x = true → t.x.toNat = s.x.toNat % 256 ∧ t.y.toNat = s.y.toNat % 256) ∧
    (flag t.p .x = false → t.x = s.x ∧ t.y = s.y) ∧ t.cycles = s.cycles + (if s.e then 6 else 7)

/-- An interrupt followed at once by RTI restores S, P, PC and PBR exactly, and every other register is as before, but for
the wait, which the service ends (60_exceptions.md R408, 40_dispatch.md R120). -/
def Obligations.InterruptThenReturn : Prop :=
  ∀ (s t : State) (kind : Interrupt), s.Inv → StackInRam s.sp 4 → s.stepKind = .service kind → step s = .next t →
    Ends .rti t fun u => u.p = s.p ∧ ∀ r : Reg, r ≠ .waiting → u.reg r = s.reg r

/-! The stack -/

/-- The stack primitives: a push writes at 0x00:S and then decrements S, a pull increments S and then reads, S wrapping at 16
bits; a word is pushed high byte first and pulled low byte first; pushed and pulled at once, a byte or word comes back with S
as it was, where the stack bytes are RAM (46_stack.md R290 to R293). -/
def Obligations.StackPrimitives : Prop :=
  (∀ (s : State) (b : Byte) (v : Word),
     (s.push8 b).sp.toNat = (s.sp.toNat + 0xFFFF) % 0x10000 ∧ (s.push8 b).bus = s.bus.write (mkAddr 0x00 s.sp) b ∧
     s.push8 b = { s with sp := (s.push8 b).sp, bus := (s.push8 b).bus } ∧
     s.push16 v = (s.push8 (hiByte v)).push8 (loByte v)) ∧
  (∀ s : State,
     (s.sp + 1).toNat = (s.sp.toNat + 1) % 0x10000 ∧ s.pop8.1 = (s.bus.read (mkAddr 0x00 (s.sp + 1))).1 ∧
     s.pop8.2 = { s with sp := s.sp + 1, bus := (s.bus.read (mkAddr 0x00 (s.sp + 1))).2 } ∧
     s.pop16.1.toNat = s.pop8.2.pop8.1.toNat * 256 + s.pop8.1.toNat ∧ s.pop16.2 = s.pop8.2.pop8.2) ∧
  (∀ (s : State) (b : Byte) (v : Word), s.bus.wf = true →
     ((locate s.bus.scheme (mkAddr 0x00 s.sp)).isRam = true → (s.push8 b).pop8 = (b, { s with bus := (s.push8 b).bus })) ∧
     ((locate s.bus.scheme (mkAddr 0x00 s.sp)).isRam = true → (locate s.bus.scheme (mkAddr 0x00 (s.sp - 1))).isRam = true →
       (s.push16 v).pop16 = (v, { s with bus := (s.push16 v).bus })))

/-- Every push instruction: what it pushes, at which width, no flag and no other register changed (46_stack.md R294 to R300,
R307, R308, R309). -/
def Obligations.Pushes : Prop :=
  ∀ (s : State) (v rel : Word) (off : Byte),
    let byte := fun (i : Instr) (b : Byte) => Ends i s fun t =>
      t.sp = s.sp - 1 ∧ t.bus = (s.push8 b).bus ∧ Keeps [.sp] [] s t ∧ t.cycles = s.cycles + 3
    let word := fun (i : Instr) (v : Word) (n : Nat) => Ends i s fun t =>
      t.sp = s.sp - 2 ∧ t.bus = (s.push16 v).bus ∧ Keeps [.sp] [] s t ∧ t.cycles = s.cycles + n
    (flag s.p .m = true → byte .pha (loByte s.a)) ∧ (flag s.p .m = false → word .pha s.a 4) ∧
    (flag s.p .x = true → byte .phx (loByte s.x)) ∧ (flag s.p .x = false → word .phx s.x 4) ∧
    (flag s.p .x = true → byte .phy (loByte s.y)) ∧ (flag s.p .x = false → word .phy s.y 4) ∧
    byte .php s.p ∧ byte .phb s.dbr ∧ byte .phk s.pbr ∧ word .phd s.d 4 ∧ word (.pea v) v 5 ∧
    word (.per rel) (BitVec.ofNat 16 ((s.pc.toNat + rel.toNat) % 0x10000)) 6 ∧
    Ends (.pei off) s (fun t => t.sp = s.sp - 2 ∧ Keeps [.sp] [] s t ∧
      t.cycles = s.cycles + (if s.d.toNat % 256 = 0 then 6 else 7) ∧
      ∀ p : Word, p.toNat = (s.d.toNat + off.toNat) % 0x10000 →
        t.bus = ((s.withBus (s.bus.readBank2 0x00 p).2).push16 (s.bus.readBank2 0x00 p).1).bus)

/-- PLA, PLX, PLY: one or two bytes by the width flag, N and Z at that width. PLP, PLB, PLD: the whole of P with the width
rule of R36, DBR with N and Z from the byte, D with N and Z from 16 bits (46_stack.md R301 to R306). -/
def Obligations.Pulls : Prop :=
  (∀ s : State,
     let done := fun (r : Reg) (w : Width) (v : Word) (u : State) (n : Nat) (t : State) =>
       NZFrom w v t ∧ Keeps [r, .sp] [.z, .n] s t ∧ t.sp = u.sp ∧ t.bus = u.bus ∧ t.cycles = s.cycles + n
     (flag s.p .m = true → Ends .pla s fun t => AccumulatorIs (zextWord s.pop8.1) s t ∧
       done .a .w8 (zextWord s.pop8.1) s.pop8.2 4 t) ∧
     (flag s.p .m = false → Ends .pla s fun t => AccumulatorIs s.pop16.1 s t ∧ done .a .w16 s.pop16.1 s.pop16.2 5 t) ∧
     (flag s.p .x = true → Ends .plx s fun t => IndexIs (zextWord s.pop8.1) s t.x ∧
       done .x .w8 (zextWord s.pop8.1) s.pop8.2 4 t) ∧
     (flag s.p .x = false → Ends .plx s fun t => IndexIs s.pop16.1 s t.x ∧ done .x .w16 s.pop16.1 s.pop16.2 5 t) ∧
     (flag s.p .x = true → Ends .ply s fun t => IndexIs (zextWord s.pop8.1) s t.y ∧
       done .y .w8 (zextWord s.pop8.1) s.pop8.2 4 t) ∧
     (flag s.p .x = false → Ends .ply s fun t => IndexIs s.pop16.1 s t.y ∧ done .y .w16 s.pop16.1 s.pop16.2 5 t)) ∧
  (∀ s : State,
     Ends .plp s (fun t => t.p = s.pop8.1 ∧ t.sp = s.sp + 1 ∧ t.bus = s.pop8.2.bus ∧
       Keeps [.sp, .x, .y] [.c, .z, .i, .d, .x, .m, .v, .n] s t ∧
       (flag t.p .x = true → t.x.toNat = s.x.toNat % 256 ∧ t.y.toNat = s.y.toNat % 256) ∧
       (flag t.p .x = false → t.x = s.x ∧ t.y = s.y) ∧ t.cycles = s.cycles + 4) ∧
     Ends .plb s (fun t => t.dbr = s.pop8.1 ∧ NZFrom .w8 (zextWord s.pop8.1) t ∧ t.sp = s.sp + 1 ∧ t.bus = s.pop8.2.bus ∧
       Keeps [.sp, .dbr] [.z, .n] s t ∧ t.cycles = s.cycles + 4) ∧
     Ends .pld s (fun t => t.d = s.pop16.1 ∧ NZFrom .w16 s.pop16.1 t ∧ t.sp = s.sp + 2 ∧ t.bus = s.pop16.2.bus ∧
       Keeps [.sp, .d] [.z, .n] s t ∧ t.cycles = s.cycles + 5))

/-! Status and system -/

/-- CLC, SEC, CLI, SEI, CLD, SED, CLV: one flag, nothing else. REP clears and SEP sets every bit of P that is set in the
operand, whatever E is; where P.X is then 1 the high bytes of X and Y are cleared, and A keeps its high byte
(47_status_system.md R310 to R318). -/
def Obligations.StatusWrites : Prop :=
  (∀ (s : State) (i : Instr) (f : Flag) (v : Bool),
     (i, f, v) ∈ [(Instr.clc, Flag.c, false), (.sec, .c, true), (.cli, .i, false), (.sei, .i, true), (.cld, .d, false),
       (.sed, .d, true), (.clv, .v, false)] →
     Ends i s fun t => flag t.p f = v ∧ Keeps [] [f] s t ∧ t.bus = s.bus ∧ t.cycles = s.cycles + 2) ∧
  (∀ (s : State) (v : Byte),
     let done := fun (p : Byte) (t : State) =>
       t.p = p ∧ Keeps [.x, .y] [.c, .z, .i, .d, .x, .m, .v, .n] s t ∧
       (flag p .x = true → t.x.toNat = s.x.toNat % 256 ∧ t.y.toNat = s.y.toNat % 256) ∧
       (flag p .x = false → t.x = s.x ∧ t.y = s.y) ∧ t.bus = s.bus ∧ t.cycles = s.cycles + 3
     Ends (.rep v) s (done (s.p &&& ~~~v)) ∧ Ends (.sep v) s (done (s.p ||| v)))

/-- XCE: C and E exchanged; entering emulation mode sets M and X, clears the high bytes of X and Y and puts S in page 1;
otherwise nothing else changes (47_status_system.md R319). -/
def Obligations.ExchangeCarryEmulation : Prop :=
  ∀ s : State, Ends .xce s fun t => t.e = flag s.p .c ∧ flag t.p .c = s.e ∧ t.bus = s.bus ∧ t.cycles = s.cycles + 2 ∧
    (s.e = false → flag s.p .c = true → flag t.p .m = true ∧ flag t.p .x = true ∧ t.x.toNat = s.x.toNat % 256 ∧
      t.y.toNat = s.y.toNat % 256 ∧ t.sp.toNat = 0x0100 + s.sp.toNat % 256 ∧ Keeps [.e, .x, .y, .sp] [.c, .m, .x] s t) ∧
    (s.e = true ∨ flag s.p .c = false → Keeps [.e] [.c] s t)

/-- NOP and WDM change only the cycle counter; WAI sets waiting and STP sets stopped (47_status_system.md R320 to R323). -/
def Obligations.SystemInstructions : Prop :=
  ∀ (s : State) (sig : Byte),
    exec .nop s = .next { s with cycles := s.cycles + 2 } ∧
    exec (.wdm sig) s = .next { s with cycles := s.cycles + 2 } ∧
    exec .wai s = .next { s with cycles := s.cycles + 3, waiting := true } ∧
    exec .stp s = .next { s with cycles := s.cycles + 3, stopped := true }

/-! Frames over memory and the cycle charge -/

/-- Every instruction but the stores, the read-modify-writes on memory, the block moves and what pushes leaves all of
memory, where it invokes no callback (42_load_store_transfer.md to 47_status_system.md; 20_memory.md R79). -/
def Obligations.OtherInstructionsKeepMemory : Prop :=
  ∀ (i : Instr) (s t : State), exec i s = .next t → Quiet s t →
    i.opcode ∉ staOpcodes ++ stxOpcodes ++ styOpcodes ++ stzOpcodes ++ incOpcodes ++ decOpcodes ++ aslOpcodes ++
      lsrOpcodes ++ rolOpcodes ++ rorOpcodes ++ tsbOpcodes ++ trbOpcodes ++
      [0x54, 0x44, 0x48, 0xDA, 0x5A, 0x08, 0x8B, 0x0B, 0x4B, 0xF4, 0xD4, 0x62, 0x20, 0xFC, 0x22, 0x00, 0x02] →
    t.bus = s.bus

/-- A store or a read-modify-write that invokes no callback leaves every byte outside the bytes of its width at its
effective address; a block move every byte but the one at dstbank:Y (41_addressing.md R148). -/
def Obligations.StoresWriteOnlyTheirBytes : Prop :=
  ∀ (i : Instr) (s t : State), s.bus.wf = true → exec i s = .next t → Quiet s t →
    (∀ mode, dataOperand i = some (.mem mode) →
      i.opcode ∈ staOpcodes ++ stzOpcodes ++ incOpcodes ++ decOpcodes ++ aslOpcodes ++ lsrOpcodes ++ rolOpcodes ++
        rorOpcodes ++ tsbOpcodes ++ trbOpcodes → MemoryKeptBut (bytesAt s.wM (mode.resolve s).ea) s t) ∧
    (∀ mode, dataOperand i = some (.mem mode) → i.opcode ∈ stxOpcodes ++ styOpcodes →
      MemoryKeptBut (bytesAt s.wX (mode.resolve s).ea) s t) ∧
    (∀ dst src, i = .mvn dst src ∨ i = .mvp dst src → MemoryKeptBut [mkAddr dst s.getY] s t)

/-- A push, call or software interrupt that invokes no callback leaves every byte outside those it pushes
(46_stack.md R290, R291). -/
def Obligations.PushesWriteOnlyTheirBytes : Prop :=
  ∀ (i : Instr) (s t : State), s.bus.wf = true → exec i s = .next t → Quiet s t →
    (i.opcode = 0x48 → MemoryKeptBut (pushedAt s.sp (s.wM.bits / 8)) s t) ∧
    (i.opcode ∈ ([0xDA, 0x5A] : List Byte) → MemoryKeptBut (pushedAt s.sp (s.wX.bits / 8)) s t) ∧
    (i.opcode ∈ ([0x08, 0x8B, 0x4B] : List Byte) → MemoryKeptBut (pushedAt s.sp 1) s t) ∧
    (i.opcode ∈ ([0x0B, 0xF4, 0xD4, 0x62, 0x20, 0xFC] : List Byte) → MemoryKeptBut (pushedAt s.sp 2) s t) ∧
    (i.opcode = 0x22 → MemoryKeptBut (pushedAt s.sp 3) s t) ∧
    (i.opcode ∈ ([0x00, 0x02] : List Byte) → MemoryKeptBut (pushedAt s.sp 4) s t)

/-- What each cycle modifier adds (70_reset_and_hazards.md R461 to R469). -/
def Obligations.CycleModifiers : Prop :=
  ∀ (s : State) (facts : CycleFacts),
    Modifier.m1.cost s facts = (1 - (flag s.p .m).toNat) ∧ Modifier.m2.cost s facts = 2 * (1 - (flag s.p .m).toNat) ∧
    Modifier.x1.cost s facts = (1 - (flag s.p .x).toNat) ∧
    Modifier.dl.cost s facts = (if s.d.toNat % 256 = 0 then 0 else 1) ∧
    Modifier.px.cost s facts = (if flag s.p .x = false ∨ facts.crossed = true then 1 else 0) ∧
    Modifier.br.cost s facts =
      (if facts.taken = true then 1 else 0) + (if facts.taken = true ∧ s.e = true ∧ facts.otherPage = true then 1 else 0) ∧
    Modifier.bra.cost s facts = (if s.e = true ∧ facts.otherPage = true then 1 else 0) ∧
    Modifier.e1.cost s facts = (if s.e = true then 0 else 1) ∧ Modifier.mv.cost s facts = 0

end
end

