-- ==== Sys2Proof/Laws/Bits.lean ====
section
/-! SUPPORT. Bytes of words and addresses: taking apart what was put together, values as numbers, the widths. -/

namespace Sys2Proof

theorem toNat_mkWord (h l : Byte) : (mkWord h l).toNat = h.toNat * 256 + l.toNat := by
  have hl := l.isLt
  simp only [mkWord, BitVec.toNat_append]
  rw [← Nat.shiftLeft_add_eq_or_of_lt hl, Nat.shiftLeft_eq]

theorem toNat_loByte (v : Word) : (loByte v).toNat = v.toNat % 256 := by
  simp [loByte]

theorem toNat_hiByte (v : Word) : (hiByte v).toNat = v.toNat / 256 := by
  have := v.isLt
  simp only [hiByte, BitVec.extractLsb'_toNat, Nat.shiftRight_eq_div_pow]
  omega

theorem toNat_zextWord (v : Byte) : (zextWord v).toNat = v.toNat := by
  have := v.isLt
  simp only [zextWord, BitVec.toNat_setWidth]
  omega

@[simp] theorem loByte_mkWord (h l : Byte) : loByte (mkWord h l) = l := by
  apply BitVec.eq_of_toNat_eq
  have := l.isLt
  rw [toNat_loByte, toNat_mkWord]
  omega

@[simp] theorem hiByte_mkWord (h l : Byte) : hiByte (mkWord h l) = h := by
  apply BitVec.eq_of_toNat_eq
  have := l.isLt
  rw [toNat_hiByte, toNat_mkWord]
  omega

@[simp] theorem mkWord_hiByte_loByte (v : Word) : mkWord (hiByte v) (loByte v) = v := by
  apply BitVec.eq_of_toNat_eq
  rw [toNat_mkWord, toNat_hiByte, toNat_loByte]
  omega

@[simp] theorem loByte_zextWord (v : Byte) : loByte (zextWord v) = v := by
  apply BitVec.eq_of_toNat_eq
  have := v.isLt
  rw [toNat_loByte, toNat_zextWord]
  omega

@[simp] theorem hiByte_zextWord (v : Byte) : hiByte (zextWord v) = 0 := by
  apply BitVec.eq_of_toNat_eq
  have := v.isLt
  rw [toNat_hiByte, toNat_zextWord]
  simp only [BitVec.ofNat_eq_ofNat, BitVec.toNat_ofNat]
  omega

/-- A word is known by its two bytes. -/
theorem word_ext {v w : Word} (hl : loByte v = loByte w) (hh : hiByte v = hiByte w) : v = w := by
  rw [← mkWord_hiByte_loByte v, ← mkWord_hiByte_loByte w, hl, hh]

theorem toNat_mkAddr (b : Byte) (o : Word) : (mkAddr b o).toNat = b.toNat * 65536 + o.toNat := by
  have ho := o.isLt
  simp only [mkAddr, BitVec.toNat_append]
  rw [← Nat.shiftLeft_add_eq_or_of_lt ho, Nat.shiftLeft_eq]

theorem toNat_zextAddr (v : Word) : (zextAddr v).toNat = v.toNat := by
  have := v.isLt
  simp only [zextAddr, BitVec.toNat_setWidth]
  omega

theorem toNat_addr_bank (a : Addr) : a.bank.toNat = a.toNat / 65536 := by
  have := a.isLt
  simp only [Addr.bank, BitVec.extractLsb'_toNat, Nat.shiftRight_eq_div_pow]
  omega

theorem toNat_addr_offset (a : Addr) : a.offset.toNat = a.toNat % 65536 := by
  simp [Addr.offset]

@[simp] theorem bank_mkAddr (b : Byte) (o : Word) : (mkAddr b o).bank = b := by
  apply BitVec.eq_of_toNat_eq
  have := o.isLt
  rw [toNat_addr_bank, toNat_mkAddr]
  omega

@[simp] theorem offset_mkAddr (b : Byte) (o : Word) : (mkAddr b o).offset = o := by
  apply BitVec.eq_of_toNat_eq
  have := o.isLt
  rw [toNat_addr_offset, toNat_mkAddr]
  omega

@[simp] theorem mkAddr_bank_offset (a : Addr) : mkAddr a.bank a.offset = a := by
  apply BitVec.eq_of_toNat_eq
  rw [toNat_mkAddr, toNat_addr_bank, toNat_addr_offset]
  omega

@[simp] theorem mkLong_bytes (a : Addr) : mkLong a.bank (hiByte a.offset) (loByte a.offset) = a := by
  simp [mkLong]

namespace Width

theorem bits_pos (w : Width) : 0 < w.bits := by cases w <;> decide

theorem toNat_trunc (w : Width) (v : Word) : (w.trunc v).toNat = v.toNat % 2 ^ w.bits := by
  cases w
  · simp [trunc, bits, toNat_zextWord, toNat_loByte]
  · have := v.isLt
    simp only [trunc, bits]
    omega

@[simp] theorem trunc_trunc (w : Width) (v : Word) : w.trunc (w.trunc v) = w.trunc v := by
  cases w <;> simp [trunc]

theorem trunc_eq_iff (w : Width) (v : Word) : w.trunc v = v ↔ v.toNat < 2 ^ w.bits := by
  have h : 0 < 2 ^ w.bits := Nat.two_pow_pos _
  rw [← BitVec.toNat_inj, toNat_trunc]
  constructor
  · intro e; rw [← e]; exact Nat.mod_lt _ h
  · exact Nat.mod_eq_of_lt

theorem trunc_merge (w : Width) (old v : Word) : w.trunc (w.merge old v) = w.trunc v := by
  cases w <;> simp [trunc, merge]

theorem loByte_trunc (w : Width) (v : Word) : loByte (w.trunc v) = loByte v := by
  cases w <;> simp [trunc]

theorem msb_trunc (w : Width) (v : Word) : w.msb (w.trunc v) = w.msb v := by
  cases w
  · simp [msb, trunc, bits, zextWord, loByte]
  · rfl

end Width

end Sys2Proof
end

