-- ==== Sys2Proof/Laws/Flags.lean ====
section
/-! SUPPORT. Reading a flag after writing one, and what each flag computation writes and keeps. -/

namespace Sys2Proof.Machine

theorem getLsbD_mask (f g : Flag) : (f.mask).getLsbD g.bit = decide (f = g) := by
  cases f <;> cases g <;> decide

@[simp] theorem flag_setFlag_same (p : Byte) (f : Flag) (b : Bool) : flag (setFlag p f b) f = b := by
  cases b <;> cases f <;> simp [flag, setFlag, Flag.mask, Flag.bit]

theorem flag_setFlag_other (p : Byte) {f g : Flag} (b : Bool) (h : g ≠ f) : flag (setFlag p f b) g = flag p g := by
  have hm := getLsbD_mask f g
  have hn : decide (f = g) = false := by simpa using fun e => h e.symm
  have hb : g.bit < 8 := by cases g <;> decide
  cases b
  · simp only [flag, setFlag, Bool.false_eq_true, if_false, BitVec.getLsbD_and, BitVec.getLsbD_not, hm, hn, hb]
    simp
  · simp only [flag, setFlag, if_true, BitVec.getLsbD_or, hm, hn, Bool.or_false]

/-- A written flag reads as the value written, every other as before. -/
@[simp] theorem flag_setFlag (p : Byte) (f g : Flag) (b : Bool) :
    flag (setFlag p f b) g = if g = f then b else flag p g := by
  by_cases h : g = f
  · subst h; simp
  · rw [if_neg h, flag_setFlag_other p b h]

/-- The status word is known by its flags. -/
theorem byte_ext_of_flags {p q : Byte} (h : ∀ f, flag p f = flag q f) : p = q := by
  have hc := h .c; have hz := h .z; have hi := h .i; have hd := h .d
  have hx := h .x; have hm := h .m; have hv := h .v; have hn := h .n
  simp only [flag, Flag.bit] at hc hz hi hd hx hm hv hn
  apply BitVec.eq_of_getLsbD_eq
  intro i hi8
  have : i = 0 ∨ i = 1 ∨ i = 2 ∨ i = 3 ∨ i = 4 ∨ i = 5 ∨ i = 6 ∨ i = 7 := by omega
  rcases this with rfl | rfl | rfl | rfl | rfl | rfl | rfl | rfl <;> assumption

@[simp] theorem flag_setNZ_z (p : Byte) (w : Width) (v : Word) : flag (setNZ p w v) .z = (w.trunc v == 0) := by
  simp [setNZ]

@[simp] theorem flag_setNZ_n (p : Byte) (w : Width) (v : Word) : flag (setNZ p w v) .n = w.msb v := by
  simp [setNZ]

/-- setNZ keeps every flag but Z and N (10_state.md R35). -/
theorem flag_setNZ_other (p : Byte) (w : Width) (v : Word) {g : Flag} (hz : g ≠ .z) (hn : g ≠ .n) :
    flag (setNZ p w v) g = flag p g := by
  simp [setNZ, hz, hn]

@[simp] theorem flag_setNZ_c (p : Byte) (w : Width) (v : Word) : flag (setNZ p w v) .c = flag p .c := by simp [setNZ]
@[simp] theorem flag_setNZ_i (p : Byte) (w : Width) (v : Word) : flag (setNZ p w v) .i = flag p .i := by simp [setNZ]
@[simp] theorem flag_setNZ_d (p : Byte) (w : Width) (v : Word) : flag (setNZ p w v) .d = flag p .d := by simp [setNZ]
@[simp] theorem flag_setNZ_x (p : Byte) (w : Width) (v : Word) : flag (setNZ p w v) .x = flag p .x := by simp [setNZ]
@[simp] theorem flag_setNZ_m (p : Byte) (w : Width) (v : Word) : flag (setNZ p w v) .m = flag p .m := by simp [setNZ]
@[simp] theorem flag_setNZ_v (p : Byte) (w : Width) (v : Word) : flag (setNZ p w v) .v = flag p .v := by simp [setNZ]

/-- Z of setNZ as a statement about numbers (10_state.md R35). -/
theorem setNZ_z_iff (p : Byte) (w : Width) (v : Word) : flag (setNZ p w v) .z = true ↔ v.toNat % 2 ^ w.bits = 0 := by
  rw [flag_setNZ_z, beq_iff_eq, ← BitVec.toNat_inj, Width.toNat_trunc]
  rfl

/-- The sum of an addition at a width, as numbers (43_alu.md R250). -/
theorem addWithCarry_value (w : Width) (p : Byte) (a m : Word) :
    (addWithCarry w p a m).value.toNat = (a.toNat + m.toNat + (flag p .c).toNat) % 2 ^ w.bits := by
  have h : 2 ^ w.bits ≤ 2 ^ 16 := by cases w <;> decide
  have hp : 0 < 2 ^ w.bits := Nat.two_pow_pos _
  simp only [addWithCarry, BitVec.toNat_ofNat]
  exact Nat.mod_eq_of_lt (lt_of_lt_of_le (Nat.mod_lt _ hp) h)

/-- C of an addition: the sum does not fit the width (43_alu.md R250). -/
theorem addWithCarry_c (w : Width) (p : Byte) (a m : Word) :
    flag (addWithCarry w p a m).p .c = true ↔ 2 ^ w.bits ≤ a.toNat + m.toNat + (flag p .c).toNat := by
  have hp : 0 < 2 ^ w.bits := Nat.two_pow_pos _
  simp [addWithCarry]
  omega

/-- C of a compare: the register is at least the operand, unsigned (43_alu.md R252). -/
theorem compareFlags_c (w : Width) (p : Byte) (r m : Word) :
    flag (compareFlags w p r m) .c = decide (m.toNat ≤ r.toNat) := by
  simp [compareFlags]

end Sys2Proof.Machine
end

