-- ==== Sys2Proof/Laws/Memory.lean ====
section
/-! SUPPORT. The laws of the byte arrays and of the handler table: read after write, the canonical form kept, equality. -/

namespace Sys2Proof.Machine

namespace Memory

theorem risesFrom_mono {lo lo' : Nat} {m : Memory} (hl : lo' ≤ lo) (h : risesFrom lo m = true) : risesFrom lo' m = true := by
  cases m with
  | nil => rfl
  | cons c m =>
    simp only [risesFrom, Bool.and_eq_true, decide_eq_true_eq] at h ⊢
    exact ⟨⟨by omega, h.1.2⟩, h.2⟩

theorem read_of_lt {lo i : Nat} {m : Memory} (h : risesFrom lo m = true) (hi : i < lo) : m.read i = 0 := by
  cases m with
  | nil => rfl
  | cons c m =>
    simp only [risesFrom, Bool.and_eq_true, decide_eq_true_eq] at h
    have h1 : ¬ i = c.1 := by omega
    have h2 : i < c.1 := by omega
    simp [read, h1, h2]

theorem read_write_same {lo : Nat} {m : Memory} (i : Nat) (v : Byte) (h : risesFrom lo m = true) :
    (m.write i v).read i = v := by
  induction m generalizing lo with
  | nil =>
    by_cases hv : v = 0#8
    · subst hv; rfl
    · simp [write, read, hv]
  | cons c m ih =>
    obtain ⟨k, u⟩ := c
    simp only [risesFrom, Bool.and_eq_true, decide_eq_true_eq] at h
    have hnext := h.2
    by_cases hlt : i < k
    · have hne : ¬ i = k := by omega
      by_cases hv : v = 0#8
      · simp [write, read, hlt, hne, hv]
      · simp [write, read, hlt, hv]
    · by_cases heq : i = k
      · subst heq
        by_cases hv : v = 0#8
        · simpa [write, hv] using read_of_lt hnext (by omega)
        · simp [write, read, hv]
      · simp only [write, hlt, heq, if_false, read]
        exact ih hnext

theorem read_write_other {lo : Nat} {m : Memory} {i j : Nat} (v : Byte) (h : risesFrom lo m = true) (hj : j ≠ i) :
    (m.write i v).read j = m.read j := by
  induction m generalizing lo with
  | nil =>
    by_cases hv : v = 0#8
    · simp [write, hv]
    · simp [write, read, hv, hj]
  | cons c m ih =>
    obtain ⟨k, u⟩ := c
    simp only [risesFrom, Bool.and_eq_true, decide_eq_true_eq] at h
    have hnext := h.2
    by_cases hlt : i < k
    · by_cases hv : v = 0#8
      · simp [write, hlt, hv]
      · by_cases hji : j < i
        · have h1 : ¬ j = k := by omega
          have h2 : j < k := by omega
          simp [write, read, hlt, hv, hj, hji, h1, h2]
        · simp [write, read, hlt, hv, hj, hji]
    · by_cases heq : i = k
      · subst heq
        by_cases hv : v = 0#8
        · by_cases hji : j < i
          · simpa [write, hv, read, hj, hji] using read_of_lt hnext (by omega)
          · simp [write, hv, read, hj, hji]
        · simp [write, read, hv, hj]
      · simp only [write, hlt, heq, if_false, read]
        by_cases hjk : j = k
        · simp [hjk]
        · by_cases hjl : j < k
          · simp [hjk, hjl]
          · simp only [hjk, hjl, if_false]
            exact ih hnext

theorem write_risesFrom {lo : Nat} {m : Memory} {i : Nat} (v : Byte) (h : risesFrom lo m = true) (hi : lo ≤ i) :
    risesFrom lo (m.write i v) = true := by
  induction m generalizing lo with
  | nil =>
    by_cases hv : v = 0#8
    · simp [write, hv, risesFrom]
    · simp [write, hv, risesFrom, hi]
  | cons c m ih =>
    obtain ⟨k, u⟩ := c
    have h' := h
    simp only [risesFrom, Bool.and_eq_true, decide_eq_true_eq] at h
    obtain ⟨⟨hlo, hu⟩, hnext⟩ := h
    by_cases hlt : i < k
    · by_cases hv : v = 0#8
      · simpa [write, hlt, hv] using h'
      · have : i + 1 ≤ k := by omega
        simp_all [write, risesFrom]
    · by_cases heq : i = k
      · by_cases hv : v = 0#8
        · simpa [write, heq, hv] using risesFrom_mono (Nat.le_succ_of_le hlo) hnext
        · simp [write, heq, hv, risesFrom, hlo, hnext]
      · simp only [write, hlt, heq, if_false, risesFrom, Bool.and_eq_true, decide_eq_true_eq]
        exact ⟨⟨hlo, hu⟩, ih hnext (by omega)⟩

theorem write_wf {m : Memory} (i : Nat) (v : Byte) (h : m.wf = true) : (m.write i v).wf = true :=
  write_risesFrom v h (Nat.zero_le i)

theorem write_below {m : Memory} {i n : Nat} (v : Byte) (h : m.below n = true) (hi : i < n) : (m.write i v).below n = true := by
  induction m with
  | nil =>
    by_cases hv : v = 0#8
    · simp [write, hv, below]
    · simp [write, hv, below, hi]
  | cons c m ih =>
    obtain ⟨k, u⟩ := c
    simp only [below, List.all_cons, Bool.and_eq_true, decide_eq_true_eq] at h ih ⊢
    by_cases hlt : i < k
    · by_cases hv : v = 0#8
      · simp [write, hlt, hv, h.1, h.2]
      · simp [write, hlt, hv, h.1, h.2, hi]
    · by_cases heq : i = k
      · by_cases hv : v = 0#8
        · simp [write, heq, hv, h.2]
        · simp [write, heq, hv, h.1, h.2]
      · simp [write, hlt, heq, h.1, ih h.2]

/-- Equal reads make equal lists: the form is canonical. -/
theorem ext_of_read {lo : Nat} {m n : Memory} (hm : risesFrom lo m = true) (hn : risesFrom lo n = true)
    (h : ∀ i, m.read i = n.read i) : m = n := by
  induction m generalizing lo n with
  | nil =>
    cases n with
    | nil => rfl
    | cons c n =>
      simp only [risesFrom, Bool.and_eq_true, decide_eq_true_eq] at hn
      have := h c.1
      simp only [read, if_true] at this
      exact absurd this.symm hn.1.2
  | cons c m ih =>
    obtain ⟨k, u⟩ := c
    simp only [risesFrom, Bool.and_eq_true, decide_eq_true_eq] at hm
    cases n with
    | nil =>
      have := h k
      simp only [read, if_true] at this
      exact absurd this hm.1.2
    | cons d n =>
      obtain ⟨l, w⟩ := d
      simp only [risesFrom, Bool.and_eq_true, decide_eq_true_eq] at hn
      have hkl : k = l := by
        by_contra hne
        rcases Nat.lt_or_gt_of_ne hne with hlt | hgt
        · have := h k
          simp only [read, if_true, hne, hlt, if_false] at this
          exact hm.1.2 this
        · have := h l
          have hne' : ¬ l = k := fun e => hne e.symm
          simp only [read, if_true, hne', if_false, show l < k from hgt] at this
          exact hn.1.2 this.symm
      subst hkl
      have huw : u = w := by
        have := h k
        simpa only [read, if_true] using this
      subst huw
      have hrest : ∀ i, read m i = read n i := by
        intro i
        by_cases hi : i < k + 1
        · rw [read_of_lt hm.2 hi, read_of_lt hn.2 hi]
        · have := h i
          have h1 : ¬ i = k := by omega
          have h2 : ¬ i < k := by omega
          simpa only [read, h1, h2, if_false] using this
      rw [ih hm.2 hn.2 hrest]

theorem ofBytes_risesFrom (i : Nat) (vs : List Byte) : risesFrom i (ofBytes i vs) = true := by
  induction vs generalizing i with
  | nil => rfl
  | cons v vs ih =>
    by_cases hv : v = 0#8
    · simpa [ofBytes, hv] using risesFrom_mono (Nat.le_succ i) (ih (i + 1))
    · simp [ofBytes, hv, risesFrom, ih (i + 1)]

theorem ofBytes_below (i : Nat) (vs : List Byte) : (ofBytes i vs).below (i + vs.length) = true := by
  induction vs generalizing i with
  | nil => rfl
  | cons v vs ih =>
    have h := ih (i + 1)
    have e : i + 1 + vs.length = i + (vs.length + 1) := by omega
    rw [e] at h
    by_cases hv : v = 0#8
    · simpa [ofBytes, hv] using h
    · simp only [below, List.length_cons] at h ⊢
      simp [ofBytes, hv, h]

/-- The array of an image holds the image. -/
theorem read_ofBytes (i j : Nat) (vs : List Byte) : (ofBytes i vs).read (i + j) = vs.getD j 0 := by
  induction vs generalizing i j with
  | nil => rfl
  | cons v vs ih =>
    cases j with
    | zero =>
      by_cases hv : v = 0#8
      · simpa [ofBytes, hv] using read_of_lt (ofBytes_risesFrom (i + 1) vs) (Nat.lt_succ_self i)
      · simp [ofBytes, hv, read]
    | succ j =>
      have e : i + (j + 1) = i + 1 + j := by omega
      have h1 : ¬ i + 1 + j = i := by omega
      have h2 : ¬ i + 1 + j < i := by omega
      rw [e, List.getD_cons_succ, ← ih (i + 1) j]
      by_cases hv : v = 0#8
      · simp [ofBytes, hv]
      · simp [ofBytes, hv, read, h1, h2]

end Memory

namespace Handlers

/-- "last registration for a given address wins" (20_memory.md R68). -/
theorem find_insert_same (t : Handlers) (i : Nat) (h : Handler) : (t.insert i h).find i = some h := by
  induction t with
  | nil => simp [insert, find]
  | cons c t ih =>
    obtain ⟨k, g⟩ := c
    by_cases hlt : i < k
    · simp [insert, find, hlt]
    · by_cases heq : i = k
      · simp [insert, find, heq]
      · simp [insert, find, hlt, heq, ih]

theorem find_insert_other (t : Handlers) {i j : Nat} (h : Handler) (hj : j ≠ i) : (t.insert i h).find j = t.find j := by
  induction t with
  | nil => simp [insert, find, hj]
  | cons c t ih =>
    obtain ⟨k, g⟩ := c
    by_cases hlt : i < k
    · by_cases hji : j < i
      · have h1 : ¬ j = k := by omega
        have h2 : j < k := by omega
        simp [insert, find, hlt, hj, hji, h1, h2]
      · simp [insert, find, hlt, hj, hji]
    · by_cases heq : i = k
      · subst heq
        simp [insert, find, hj]
      · simp only [insert, hlt, heq, if_false, find, ih]

theorem insert_risesFrom {lo : Nat} {t : Handlers} {i : Nat} (h : Handler) (ht : risesFrom lo t = true) (hi : lo ≤ i) :
    risesFrom lo (t.insert i h) = true := by
  induction t generalizing lo with
  | nil => simp [insert, risesFrom, hi]
  | cons c t ih =>
    obtain ⟨k, g⟩ := c
    simp only [risesFrom, Bool.and_eq_true, decide_eq_true_eq] at ht
    obtain ⟨hlo, hnext⟩ := ht
    by_cases hlt : i < k
    · simp only [insert, hlt, if_true, risesFrom, Bool.and_eq_true, decide_eq_true_eq]
      exact ⟨hi, by omega, hnext⟩
    · by_cases heq : i = k
      · simp only [insert, heq, if_false, if_true, lt_irrefl, risesFrom, Bool.and_eq_true, decide_eq_true_eq]
        exact ⟨hlo, hnext⟩
      · simp only [insert, hlt, heq, if_false, risesFrom, Bool.and_eq_true, decide_eq_true_eq]
        exact ⟨hlo, ih hnext (by omega)⟩

theorem insert_wf {t : Handlers} (i : Nat) (h : Handler) (ht : t.wf = true) : (t.insert i h).wf = true :=
  insert_risesFrom h ht (Nat.zero_le i)

end Handlers

end Sys2Proof.Machine
end

