-- ==== Sys2Proof/Laws/Bus.lean ====
section
/-! SUPPORT. The laws of the bus: what any access may change, when an access invokes no callback, what a read gives and
what a write leaves. -/

namespace Sys2Proof.Machine

namespace Bus

/-- What every access, callbacks included, does to the bus: ROM and scheme stay, the record only grows, the form is kept,
and an access that invokes no callback leaves everything of the host's. -/
structure Grows (b b' : Bus) : Prop where
  rom : b'.rom = b.rom
  romLen : b'.romLen = b.romLen
  scheme : b'.scheme = b.scheme
  events : ∃ evs, b'.events = b.events ++ evs
  wf : b.wf = true → b'.wf = true
  quiet : b'.events = b.events →
    b'.handlers = b.handlers ∧ b'.nmiPending = b.nmiPending ∧ b'.irqPending = b.irqPending ∧ b'.host = b.host

theorem Grows.refl (b : Bus) : b.Grows b :=
  ⟨rfl, rfl, rfl, ⟨[], by simp⟩, id, fun _ => ⟨rfl, rfl, rfl, rfl⟩⟩

/-- Along two accesses that together invoke no callback, neither does. -/
theorem Grows.quiet_parts {b b1 b2 : Bus} (h1 : b.Grows b1) (h2 : b1.Grows b2) (hq : b2.events = b.events) :
    b1.events = b.events ∧ b2.events = b1.events := by
  obtain ⟨e1, h1⟩ := h1.events
  obtain ⟨e2, h2⟩ := h2.events
  rw [h2, h1, List.append_assoc] at hq
  have hnil : e1 ++ e2 = [] := by simpa using hq
  obtain ⟨n1, n2⟩ := List.append_eq_nil_iff.mp hnil
  subst n1 n2
  exact ⟨by simpa using h1, by simpa using h2⟩

theorem Grows.trans {b b1 b2 : Bus} (h1 : b.Grows b1) (h2 : b1.Grows b2) : b.Grows b2 where
  rom := h2.rom.trans h1.rom
  romLen := h2.romLen.trans h1.romLen
  scheme := h2.scheme.trans h1.scheme
  events := by
    obtain ⟨e1, e⟩ := h1.events
    obtain ⟨e2, e'⟩ := h2.events
    exact ⟨e1 ++ e2, by rw [e', e, List.append_assoc]⟩
  wf := fun h => h2.wf (h1.wf h)
  quiet := fun hq => by
    obtain ⟨q1, q2⟩ := h1.quiet_parts h2 hq
    obtain ⟨a, b, c, d⟩ := h1.quiet q1
    obtain ⟨a', b', c', d'⟩ := h2.quiet q2
    exact ⟨a'.trans a, b'.trans b, c'.trans c, d'.trans d⟩

theorem wf_iff (b : Bus) : b.wf = true ↔ b.wram.wf = true ∧ b.wram.below wramSize = true ∧ b.sram.wf = true ∧
    b.sram.below sramSize = true ∧ b.rom.wf = true ∧ b.rom.below b.romLen = true ∧ Handlers.wf b.handlers = true := by
  simp only [Bus.wf, Bool.and_eq_true, and_assoc]

/-- Work RAM written at an index inside it keeps the form. -/
theorem wf_pokeWram {b : Bus} {i : Nat} (v : Byte) (hi : i < wramSize) (h : b.wf = true) :
    ({ b with wram := b.wram.write i v } : Bus).wf = true := by
  rw [wf_iff] at h ⊢
  obtain ⟨h1, h2, h3, h4, h5, h6, h7⟩ := h
  exact ⟨Memory.write_wf i v h1, Memory.write_below v h2 hi, h3, h4, h5, h6, h7⟩

/-- Save RAM written at an index inside it keeps the form. -/
theorem wf_pokeSram {b : Bus} {i : Nat} (v : Byte) (hi : i < sramSize) (h : b.wf = true) :
    ({ b with sram := b.sram.write i v } : Bus).wf = true := by
  rw [wf_iff] at h ⊢
  obtain ⟨h1, h2, h3, h4, h5, h6, h7⟩ := h
  exact ⟨h1, h2, Memory.write_wf i v h3, Memory.write_below v h4 hi, h5, h6, h7⟩

theorem mod_wramSize (i : Nat) : i % wramSize < wramSize := Nat.mod_lt _ (by decide)

theorem mod_sramSize (i : Nat) : i % sramSize < sramSize := Nat.mod_lt _ (by decide)

end Bus

/-- What one action of the host leaves alone. -/
theorem HostAction.apply_keeps (b : Bus) (act : HostAction) :
    (act.apply b).rom = b.rom ∧ (act.apply b).romLen = b.romLen ∧ (act.apply b).scheme = b.scheme ∧
      (∃ evs, (act.apply b).events = b.events ++ evs) ∧ (b.wf = true → (act.apply b).wf = true) := by
  cases act with
  | pokeWram i v => exact ⟨rfl, rfl, rfl, ⟨[], by simp [HostAction.apply]⟩, Bus.wf_pokeWram v (Bus.mod_wramSize i)⟩
  | pokeSram i v => exact ⟨rfl, rfl, rfl, ⟨[], by simp [HostAction.apply]⟩, Bus.wf_pokeSram v (Bus.mod_sramSize i)⟩
  | raiseNmi => exact ⟨rfl, rfl, rfl, ⟨[], by simp [HostAction.apply]⟩, id⟩
  | setIrq level => exact ⟨rfl, rfl, rfl, ⟨[], by simp [HostAction.apply]⟩, id⟩
  | register o r w =>
    refine ⟨rfl, rfl, rfl, ⟨[], by simp [HostAction.apply]⟩, fun h => ?_⟩
    rw [Bus.wf_iff] at h ⊢
    obtain ⟨h1, h2, h3, h4, h5, h6, h7⟩ := h
    exact ⟨h1, h2, h3, h4, h5, h6, Handlers.insert_wf _ _ h7⟩
  | nested e => exact ⟨rfl, rfl, rfl, ⟨[e], rfl⟩, id⟩
  | setHost tag => exact ⟨rfl, rfl, rfl, ⟨[], by simp [HostAction.apply]⟩, id⟩

namespace Bus

theorem applyAll_keeps (b : Bus) (acts : List HostAction) :
    (b.applyAll acts).rom = b.rom ∧ (b.applyAll acts).romLen = b.romLen ∧ (b.applyAll acts).scheme = b.scheme ∧
      (∃ evs, (b.applyAll acts).events = b.events ++ evs) ∧ (b.wf = true → (b.applyAll acts).wf = true) := by
  induction acts generalizing b with
  | nil => exact ⟨rfl, rfl, rfl, ⟨[], by simp [applyAll]⟩, id⟩
  | cons act acts ih =>
    obtain ⟨a1, a2, a3, ⟨e1, a4⟩, a5⟩ := HostAction.apply_keeps b act
    obtain ⟨b1, b2, b3, ⟨e2, b4⟩, b5⟩ := ih (act.apply b)
    refine ⟨b1.trans a1, b2.trans a2, b3.trans a3, ⟨e1 ++ e2, ?_⟩, fun h => b5 (a5 h)⟩
    rw [applyAll, b4, a4, List.append_assoc]

/-- An invocation stands in the record, followed by whatever the callback had invoked itself. -/
theorem invoke_events (b : Bus) (event : IoEvent) : ∃ evs, (b.invoke event).2.events = b.events ++ event :: evs := by
  obtain ⟨-, -, -, ⟨evs, h⟩, -⟩ :=
    applyAll_keeps { b with events := b.events ++ [event] } (Config.callback { b with events := b.events ++ [event] } event).actions
  exact ⟨evs, by rw [invoke, h, List.append_assoc]; rfl⟩

theorem invoke_grows (b : Bus) (event : IoEvent) : b.Grows (b.invoke event).2 := by
  obtain ⟨h1, h2, h3, -, h5⟩ :=
    applyAll_keeps { b with events := b.events ++ [event] } (Config.callback { b with events := b.events ++ [event] } event).actions
  obtain ⟨evs, h4⟩ := invoke_events b event
  refine ⟨h1, h2, h3, ⟨event :: evs, h4⟩, h5, fun hq => ?_⟩
  rw [h4] at hq
  simp at hq

/-- A write to the storage itself, work RAM. -/
theorem grows_wram (b : Bus) (off : Nat) (v : Byte) : b.Grows { b with wram := b.wram.write (off % wramSize) v } :=
  ⟨rfl, rfl, rfl, ⟨[], by simp⟩, wf_pokeWram v (mod_wramSize off), fun _ => ⟨rfl, rfl, rfl, rfl⟩⟩

/-- A write to the storage itself, save RAM. -/
theorem grows_sram (b : Bus) (off : Nat) (v : Byte) : b.Grows { b with sram := b.sram.write (off % sramSize) v } :=
  ⟨rfl, rfl, rfl, ⟨[], by simp⟩, wf_pokeSram v (mod_sramSize off), fun _ => ⟨rfl, rfl, rfl, rfl⟩⟩

theorem read_grows (b : Bus) (a : Addr) : b.Grows (b.read a).2 := by
  unfold read
  split
  · exact .refl b
  · exact .refl b
  · exact .refl b
  · rw [ioRead]; split
    · exact invoke_grows b _
    · exact .refl b
  · exact .refl b

theorem write_grows (b : Bus) (a : Addr) (v : Byte) : b.Grows (b.write a v) := by
  unfold write
  split
  · exact grows_wram b _ v
  · exact grows_sram b _ v
  · exact .refl b
  · rw [ioWrite]; split
    · exact invoke_grows b _
    · exact .refl b
  · exact .refl b

/-- A read by location. -/
theorem read_eq (b : Bus) (a : Addr) : b.read a =
    match locate b.scheme a with
    | .wram i => (b.wram.read i, b)
    | .sram i => (b.sram.read i, b)
    | .rom off => (if off < b.romLen then b.rom.read off else openBusByte, b)
    | .io off => b.ioRead off
    | .openBus => (openBusByte, b) := by
  rcases hm : mapAddress b.scheme a with ⟨region, off⟩
  cases region <;> simp [read, locate, hm]

/-- A write by location. -/
theorem write_eq (b : Bus) (a : Addr) (v : Byte) : b.write a v =
    match locate b.scheme a with
    | .wram i => { b with wram := b.wram.write i v }
    | .sram i => { b with sram := b.sram.write i v }
    | .rom _ => b
    | .io off => b.ioWrite off v
    | .openBus => b := by
  rcases hm : mapAddress b.scheme a with ⟨region, off⟩
  cases region <;> simp [write, locate, hm]

/-- Where a read invokes no callback it gives what peek says and leaves the bus. -/
theorem read_of_peek {b : Bus} {a : Addr} {v : Byte} (h : b.peek a = some v) : b.read a = (v, b) := by
  rw [read_eq]
  unfold peek at h
  cases hl : locate b.scheme a <;> simp only [hl] at h ⊢
  · simp_all
  · simp_all
  · simp_all
  · simp only [ioRead]; split at h <;> simp_all
  · simp_all

/-- A read that leaves the record invoked no callback: the bus is unchanged and peek gives the same byte. -/
theorem read_quiet {b : Bus} {a : Addr} (h : (b.read a).2.events = b.events) :
    (b.read a).2 = b ∧ b.peek a = some (b.read a).1 := by
  rw [read_eq] at h ⊢
  unfold peek
  cases hl : locate b.scheme a <;> simp only [hl, true_and] at h ⊢
  · simp only [ioRead] at h ⊢
    split at h
    · obtain ⟨evs, e⟩ := invoke_events b (.read ‹Nat›)
      rw [e] at h; simp at h
    · simp_all

/-- Outside the I/O window every address can be peeked. -/
theorem peek_isSome {b : Bus} {a : Addr} (h : ∀ off, locate b.scheme a ≠ .io off) : ∃ v, b.peek a = some v := by
  unfold peek
  cases hl : locate b.scheme a with
  | io off => exact absurd hl (h off)
  | wram i => exact ⟨_, rfl⟩
  | sram i => exact ⟨_, rfl⟩
  | rom off => exact ⟨_, rfl⟩
  | openBus => exact ⟨_, rfl⟩

/-- A write that invokes no callback leaves every byte at another location. -/
theorem peek_write_other {b : Bus} {a c : Addr} {v : Byte} (hw : b.wf = true) (hq : (b.write a v).events = b.events)
    (hc : locate b.scheme c ≠ locate b.scheme a) : (b.write a v).peek c = b.peek c := by
  rw [wf_iff] at hw
  have hs := (write_grows b a v).scheme
  rw [peek, hs, peek]
  rw [write_eq] at hq ⊢
  cases hl : locate b.scheme a <;> simp only [hl] at hq hc ⊢
  · cases hk : locate b.scheme c <;> simp only [hk] at hc ⊢
    · rw [Memory.read_write_other _ hw.1 (by simpa using hc)]
    · rfl
  · cases hk : locate b.scheme c <;> simp only [hk] at hc ⊢
    · rw [Memory.read_write_other _ hw.2.2.1 (by simpa using hc)]
    · rfl
  · simp only [ioWrite] at hq ⊢
    split at hq
    · obtain ⟨evs, e⟩ := invoke_events b (.write ‹Nat› v)
      rw [e] at hq; simp at hq
    · simp_all

/-- A byte of work RAM or save RAM reads back as it was written, at every address that names it. -/
theorem peek_write_same {b : Bus} {a c : Addr} {v : Byte} (hw : b.wf = true) (hr : (locate b.scheme a).isRam = true)
    (hc : locate b.scheme c = locate b.scheme a) : (b.write a v).peek c = some v := by
  rw [wf_iff] at hw
  have hs := (write_grows b a v).scheme
  rw [peek, hs, hc]
  rw [write_eq]
  cases hl : locate b.scheme a <;> simp only [hl, Location.isRam, Bool.false_eq_true] at hr ⊢
  · rw [Memory.read_write_same _ _ hw.1]
  · rw [Memory.read_write_same _ _ hw.2.2.1]

/-- A write to work RAM or save RAM invokes no callback. -/
theorem write_ram_quiet {b : Bus} {a : Addr} (v : Byte) (hr : (locate b.scheme a).isRam = true) :
    (b.write a v).events = b.events := by
  rw [write_eq]
  cases hl : locate b.scheme a <;> simp_all [Location.isRam]

theorem read16_grows (b : Bus) (a : Addr) : b.Grows (b.read16 a).2 := (read_grows b a).trans (read_grows _ _)

theorem write16_grows (b : Bus) (a : Addr) (v : Word) : b.Grows (b.write16 a v) := (write_grows b a _).trans (write_grows _ _ _)

theorem readAt_grows (b : Bus) (w : Width) (a : Addr) : b.Grows (b.readAt w a).2 := by
  cases w
  · exact read_grows b a
  · exact read16_grows b a

theorem writeAt_grows (b : Bus) (w : Width) (a : Addr) (v : Word) : b.Grows (b.writeAt w a v) := by
  cases w
  · exact write_grows b a _
  · exact write16_grows b a v

theorem readBank2_grows (b : Bus) (bank : Byte) (o : Word) : b.Grows (b.readBank2 bank o).2 :=
  (read_grows b _).trans (read_grows _ _)

theorem readBank3_grows (b : Bus) (bank : Byte) (o : Word) : b.Grows (b.readBank3 bank o).2 :=
  ((read_grows b _).trans (read_grows _ _)).trans (read_grows _ _)

theorem read16_of_peek {b : Bus} {a : Addr} {lo hi : Byte} (hl : b.peek a = some lo) (hh : b.peek (a + 1) = some hi) :
    b.read16 a = (mkWord hi lo, b) := by
  simp only [read16, read_of_peek hl, read_of_peek hh]

theorem readBank2_of_peek {b : Bus} {bank : Byte} {o : Word} {lo hi : Byte} (hl : b.peek (mkAddr bank o) = some lo)
    (hh : b.peek (mkAddr bank (o + 1)) = some hi) : b.readBank2 bank o = (mkWord hi lo, b) := by
  simp only [readBank2, read_of_peek hl, read_of_peek hh]

theorem readBank3_of_peek {b : Bus} {bank : Byte} {o : Word} {lo mid hi : Byte} (hl : b.peek (mkAddr bank o) = some lo)
    (hm : b.peek (mkAddr bank (o + 1)) = some mid) (hh : b.peek (mkAddr bank (o + 2)) = some hi) :
    b.readBank3 bank o = (mkLong hi mid lo, b) := by
  simp only [readBank3, read_of_peek hl, read_of_peek hm, read_of_peek hh]

theorem read16_quiet {b : Bus} {a : Addr} (h : (b.read16 a).2.events = b.events) : (b.read16 a).2 = b := by
  obtain ⟨h1, h2⟩ := (read_grows b a).quiet_parts (read_grows _ _) h
  have e1 := (read_quiet h1).1
  have e2 := (read_quiet h2).1
  simp only [read16]
  rw [e2, e1]

theorem readAt_quiet {b : Bus} {w : Width} {a : Addr} (h : (b.readAt w a).2.events = b.events) : (b.readAt w a).2 = b := by
  cases w
  · exact (read_quiet h).1
  · exact read16_quiet h

theorem readBank2_quiet {b : Bus} {bank : Byte} {o : Word} (h : (b.readBank2 bank o).2.events = b.events) :
    (b.readBank2 bank o).2 = b := by
  obtain ⟨h1, h2⟩ := (read_grows b _).quiet_parts (read_grows _ _) h
  have e1 := (read_quiet h1).1
  have e2 := (read_quiet h2).1
  simp only [readBank2]
  rw [e2, e1]

theorem readBank3_quiet {b : Bus} {bank : Byte} {o : Word} (h : (b.readBank3 bank o).2.events = b.events) :
    (b.readBank3 bank o).2 = b := by
  obtain ⟨h12, h3⟩ := ((read_grows b _).trans (read_grows _ _)).quiet_parts (read_grows _ _) h
  obtain ⟨h1, h2⟩ := (read_grows b _).quiet_parts (read_grows _ _) h12
  have e1 := (read_quiet h1).1
  have e2 := (read_quiet h2).1
  have e3 := (read_quiet h3).1
  simp only [readBank3]
  rw [e3, e2, e1]

/-- A write at a width that invokes no callback leaves every byte outside the written addresses' locations. -/
theorem peek_writeAt_other {b : Bus} {w : Width} {a c : Addr} {v : Word} (hw : b.wf = true)
    (hq : (b.writeAt w a v).events = b.events) (hc : ∀ x ∈ bytesAt w a, locate b.scheme c ≠ locate b.scheme x) :
    (b.writeAt w a v).peek c = b.peek c := by
  cases w with
  | w8 => exact peek_write_other hw hq (hc a (by simp [bytesAt]))
  | w16 =>
    obtain ⟨h1, h2⟩ := (write_grows b a (loByte v)).quiet_parts (write_grows _ _ _) hq
    have hs := (write_grows b a (loByte v)).scheme
    have hw1 := (write_grows b a (loByte v)).wf hw
    rw [writeAt, write16, peek_write_other hw1 h2, peek_write_other hw h1 (hc a (by simp [bytesAt]))]
    rw [hs]
    exact hc (a + 1) (by simp [bytesAt])

/-- The upper half of bank 0 is ROM under both schemes (20_memory.md R57, R58, R84). -/
theorem locate_upper (scheme : Scheme) {o : Word} (h : 0x8000 ≤ o.toNat) : ∃ off, locate scheme (mkAddr 0x00 o) = .rom off := by
  have h1 : ¬ 0x7E ≤ 0 % 0x80 := by decide
  have h2 : ¬ (0 % 0x80 < 0x40 ∧ o.toNat < 0x2000) := by omega
  have h3 : ¬ (0 % 0x80 < 0x40 ∧ o.toNat < 0x6000) := by omega
  cases scheme <;>
    simp only [locate, mapAddress, bank_mkAddr, offset_mkAddr, BitVec.ofNat_eq_ofNat, BitVec.toNat_ofNat, Nat.zero_mod,
      mapSchemeA, mapSchemeB] <;>
    split_ifs <;> first | omega | exact ⟨_, rfl⟩

/-- The index of a RAM byte has the parity of its address. -/
theorem locate_parity (scheme : Scheme) (a : Addr) :
    (∀ i, locate scheme a = .wram i → i % 2 = a.toNat % 2) ∧ (∀ i, locate scheme a = .sram i → i % 2 = a.toNat % 2) := by
  have ho := toNat_addr_offset a
  have hsize : wramSize = 2 * 65536 ∧ sramSize = 2 * 65536 := by decide
  rcases hm : mapAddress scheme a with ⟨region, off⟩
  have hp : region = .wram ∨ region = .sram → off % 2 = a.toNat % 2 := by
    cases scheme <;> simp only [mapAddress, mapSchemeA, mapSchemeB] at hm <;> split_ifs at hm <;>
      obtain ⟨rfl, rfl⟩ := Prod.mk.inj hm <;> intro h <;> first | omega | simp at h
  refine ⟨fun i h => ?_, fun i h => ?_⟩ <;> simp only [locate, hm] at h <;> cases region <;> simp at h
  · have := hp (.inl rfl)
    rw [hsize.1] at h
    omega
  · have := hp (.inr rfl)
    rw [hsize.2] at h
    omega

/-- Neighbouring RAM bytes are different locations. -/
theorem locate_succ_ne {scheme : Scheme} {a : Addr} (h : (locate scheme a).isRam = true) :
    locate scheme a ≠ locate scheme (a + 1) := by
  intro e
  have hs : (a + 1).toNat = (a.toNat + 1) % 16777216 := by simp [BitVec.toNat_add]
  have := a.isLt
  cases hl : locate scheme a <;> rw [hl] at h e <;> simp [Location.isRam] at h
  · have h1 := (locate_parity scheme a).1 _ hl
    have h2 := (locate_parity scheme (a + 1)).1 _ e.symm
    omega
  · have h1 := (locate_parity scheme a).2 _ hl
    have h2 := (locate_parity scheme (a + 1)).2 _ e.symm
    omega

/-- The low 8 KiB of every low bank are work RAM (20_memory.md R54). -/
theorem locate_low (scheme : Scheme) {bank : Byte} {o : Word} (hb : bank.toNat % 0x80 < 0x40) (h : o.toNat < 0x2000) :
    locate scheme (mkAddr bank o) = .wram o.toNat := by
  have h1 : ¬ 0x7E ≤ bank.toNat % 0x80 := by omega
  have h4 : o.toNat % wramSize = o.toNat := Nat.mod_eq_of_lt (Nat.lt_trans h (by decide))
  simp only [locate, mapAddress, bank_mkAddr, offset_mkAddr]
  rw [if_neg h1, if_pos ⟨hb, h⟩]
  simp only [h4]

/-- ROM bytes read alike on buses with the same image. -/
theorem peek_rom {b b' : Bus} {a : Addr} {off : Nat} (h : locate b.scheme a = .rom off) (hs : b'.scheme = b.scheme)
    (hr : b'.rom = b.rom) (hl : b'.romLen = b.romLen) : b'.peek a = b.peek a := by
  simp only [peek, hs, h, hr, hl]

/-- A vector: two bytes of ROM, read with no effect on the bus (60_exceptions.md R404). -/
theorem readBank2_vector {b b' : Bus} {o : Word} (hg : b.Grows b') (h1 : 0x8000 ≤ o.toNat) (h2 : 0x8000 ≤ (o + 1).toNat) :
    ∃ lo hi, b.peek (mkAddr 0x00 o) = some lo ∧ b.peek (mkAddr 0x00 (o + 1)) = some hi ∧
      b'.readBank2 0x00 o = (mkWord hi lo, b') := by
  obtain ⟨off1, e1⟩ := locate_upper b.scheme h1
  obtain ⟨off2, e2⟩ := locate_upper b.scheme h2
  obtain ⟨lo, hlo⟩ := peek_isSome (b := b) (a := mkAddr 0x00 o) (by rw [e1]; intro off; exact Location.noConfusion)
  obtain ⟨hi, hhi⟩ := peek_isSome (b := b) (a := mkAddr 0x00 (o + 1)) (by rw [e2]; intro off; exact Location.noConfusion)
  refine ⟨lo, hi, hlo, hhi, readBank2_of_peek ?_ ?_⟩
  · rw [peek_rom e1 hg.scheme hg.rom hg.romLen, hlo]
  · rw [peek_rom e2 hg.scheme hg.rom hg.romLen, hhi]

end Bus

end Sys2Proof.Machine
end

