-- ==== Sys2Proof/Laws/Operands.lean ====
section
/-! SUPPORT. The laws of the addressing modes: what reading an operand does to the bus, and its value's width. -/

namespace Sys2Proof.Machine

theorem AddrMode.resolve_grows (s : State) (mode : AddrMode) : s.bus.Grows (mode.resolve s).bus := by
  cases mode
  case dpInd | dpIndX | dpIndY | srIndY => exact Bus.readBank2_grows _ _ _
  case dpIndL | dpIndLY => exact Bus.readBank3_grows _ _ _
  all_goals exact .refl _

/-- Finding an operand without invoking a callback leaves the bus. -/
theorem AddrMode.resolve_quiet {s : State} {mode : AddrMode} (h : (mode.resolve s).bus.events = s.bus.events) :
    (mode.resolve s).bus = s.bus := by
  cases mode
  case dpInd | dpIndX | dpIndY | srIndY => exact Bus.readBank2_quiet h
  case dpIndL | dpIndLY => exact Bus.readBank3_quiet h
  all_goals rfl

theorem Operand.read_grows (s : State) (w : Width) (o : Operand) : s.bus.Grows (o.read s w).bus := by
  cases o with
  | imm v => exact .refl _
  | mem mode => exact (mode.resolve_grows s).trans (Bus.readAt_grows _ _ _)

/-- Reading an operand without invoking a callback leaves the bus. -/
theorem Operand.read_quiet {s : State} {w : Width} {o : Operand} (h : (o.read s w).bus.events = s.bus.events) :
    (o.read s w).bus = s.bus := by
  cases o with
  | imm v => rfl
  | mem mode =>
    obtain ⟨h1, h2⟩ := (mode.resolve_grows s).quiet_parts (Bus.readAt_grows _ w (mode.resolve s).ea) h
    exact (Bus.readAt_quiet h2).trans (AddrMode.resolve_quiet h1)

theorem Bus.readAt_fits (b : Bus) (w : Width) (a : Addr) : (b.readAt w a).1.toNat < 2 ^ w.bits := by
  cases w
  · have := (b.read a).1.isLt
    simpa [readAt, toNat_zextWord, Width.bits] using this
  · exact (b.read16 a).1.isLt

/-- An operand read at a width has that width. -/
theorem Operand.read_fits (s : State) (w : Width) (o : Operand) : (o.read s w).value.toNat < 2 ^ w.bits := by
  cases o with
  | imm v =>
    simp only [read, Width.toNat_trunc]
    exact Nat.mod_lt _ (Nat.two_pow_pos _)
  | mem mode => exact Bus.readAt_fits _ _ _

end Sys2Proof.Machine
end

