-- ==== Sys2Proof/Laws/Alu.lean ====
section
/-! SUPPORT. The flag computations as arithmetic on numbers: sums, differences, shifts and rotates at a width, carry and
overflow (43_alu.md). -/

namespace Sys2Proof

namespace Width

theorem two_mul_half (w : Width) : 2 * 2 ^ (w.bits - 1) = 2 ^ w.bits := by cases w <;> rfl

/-- A difference at a width, as numbers. -/
theorem trunc_sub (w : Width) {a m : Word} (ha : a.toNat < 2 ^ w.bits) (hm : m.toNat < 2 ^ w.bits) :
    w.trunc (a - m) = BitVec.ofNat 16 ((a.toNat + 2 ^ w.bits - m.toNat) % 2 ^ w.bits) := by
  apply BitVec.eq_of_toNat_eq
  rw [toNat_trunc, BitVec.toNat_sub, BitVec.toNat_ofNat]
  cases w <;> simp only [bits] at * <;> omega

/-- One more at a width, as numbers. -/
theorem trunc_succ (w : Width) (v : Word) : w.trunc (v + 1) = BitVec.ofNat 16 ((v.toNat + 1) % 2 ^ w.bits) := by
  apply BitVec.eq_of_toNat_eq
  rw [toNat_trunc, BitVec.toNat_add, BitVec.toNat_ofNat]
  cases w <;> simp only [bits] at * <;> simp <;> omega

/-- One less at a width, as numbers. -/
theorem trunc_pred (w : Width) {v : Word} (h : v.toNat < 2 ^ w.bits) :
    w.trunc (v - 1) = BitVec.ofNat 16 ((v.toNat + 2 ^ w.bits - 1) % 2 ^ w.bits) :=
  trunc_sub w h (by cases w <;> decide)

/-- The top bit of a value that has the width, as a comparison. -/
theorem msb_eq_decide (w : Width) {v : Word} (h : v.toNat < 2 ^ w.bits) : w.msb v = decide (2 ^ (w.bits - 1) ≤ v.toNat) := by
  cases w <;> simp only [msb, bits] at * <;> simp only [BitVec.getLsbD, Nat.testBit_eq_decide_div_mod_eq] <;>
    congr 1 <;> simp <;> omega

theorem getLsbD_sign (w : Width) {i : Nat} (h : i < 16) : w.sign.getLsbD i = decide (i = w.bits - 1) := by
  revert i
  cases w <;> decide

/-- The sign mask picks the top bit. -/
theorem and_sign_ne_zero (w : Width) (v : Word) : v &&& w.sign ≠ 0 ↔ w.msb v = true := by
  have hb : w.bits - 1 < 16 := by cases w <;> decide
  constructor
  · intro h
    by_contra hc
    apply h
    apply BitVec.eq_of_getLsbD_eq
    intro i hi
    rw [BitVec.getLsbD_and, getLsbD_sign w hi]
    by_cases hw : i = w.bits - 1
    · subst hw
      rw [Bool.not_eq_true] at hc
      rw [show v.getLsbD (w.bits - 1) = false from hc]
      simp
    · simp [hw]
  · intro h hc
    have hz := congrArg (fun z => z.getLsbD (w.bits - 1)) hc
    simp only [BitVec.getLsbD_and, getLsbD_sign w hb, decide_true, Bool.and_true] at hz
    rw [show v.getLsbD (w.bits - 1) = true from h] at hz
    simp at hz

/-- The inverted operand of a subtraction, as a number (43_alu.md R221). -/
theorem toNat_xor_mask (w : Width) {m : Word} (h : m.toNat < 2 ^ w.bits) : (m ^^^ w.mask).toNat = 2 ^ w.bits - 1 - m.toNat := by
  cases w with
  | w8 =>
    rw [show m = zextWord (loByte m) from ((trunc_eq_iff .w8 m).mpr h).symm]
    generalize loByte m = b
    have hb : zextWord b ^^^ 0x00FF = zextWord (~~~b) := by
      apply BitVec.eq_of_getLsbD_eq
      intro i hi
      have hm : ∀ i, i < 16 → (0x00FF : Word).getLsbD i = decide (i < 8) := by decide
      simp only [zextWord, BitVec.getLsbD_xor, hm i hi, BitVec.getLsbD_setWidth, BitVec.getLsbD_not]
      by_cases h8 : i < 8
      · simp [h8, hi]
      · simp [h8, hi, BitVec.getLsbD_of_ge b i (by omega)]
    simp only [bits, mask, toNat_zextWord]
    rw [hb, toNat_zextWord, BitVec.toNat_not]
  | w16 =>
    have hm : m ^^^ 0xFFFF = ~~~m := by
      apply BitVec.eq_of_getLsbD_eq
      intro i hi
      have hs : ∀ i, i < 16 → (0xFFFF : Word).getLsbD i = true := by decide
      rw [BitVec.getLsbD_xor, hs i hi, BitVec.getLsbD_not]
      simp [hi]
    simp only [bits, mask]
    rw [hm, BitVec.toNat_not]

theorem msb_xor_mask (w : Width) (m : Word) : w.msb (m ^^^ w.mask) = !w.msb m := by
  cases w <;> simp [msb, mask, bits]

end Width

theorem getLsbD_zero_eq (v : Word) : v.getLsbD 0 = decide (v.toNat % 2 = 1) := by
  simp [BitVec.getLsbD, Nat.testBit_zero]

namespace Machine

/-- V of an addition: the operands' signs agree and the result's does not (43_alu.md R250). -/
theorem overflow_iff (w : Width) (a m r : Word) :
    (((a ^^^ r) &&& (m ^^^ r) &&& w.sign) != 0) = true ↔ w.msb a ≠ w.msb r ∧ w.msb m ≠ w.msb r := by
  rw [bne_iff_ne, Width.and_sign_ne_zero]
  simp only [Width.msb, BitVec.getLsbD_and, BitVec.getLsbD_xor, Bool.and_eq_true]
  cases a.getLsbD (w.bits - 1) <;> cases m.getLsbD (w.bits - 1) <;> cases r.getLsbD (w.bits - 1) <;> decide

/-- V of an addition (43_alu.md R250). -/
theorem addWithCarry_v (w : Width) (p : Byte) (a m : Word) :
    flag (addWithCarry w p a m).p .v = true ↔
      w.msb a ≠ w.msb (addWithCarry w p a m).value ∧ w.msb m ≠ w.msb (addWithCarry w p a m).value := by
  simp only [addWithCarry]
  rw [flag_setNZ_v, flag_setFlag_same]
  exact overflow_iff _ _ _ _

/-- The sum that a subtraction forms on the inverted operand (43_alu.md R221). -/
theorem inverted_sum (w : Width) (p : Byte) {a m : Word} (hm : m.toNat < 2 ^ w.bits) :
    a.toNat + (m ^^^ w.mask).toNat + (flag p .c).toNat = a.toNat + 2 ^ w.bits - m.toNat - (1 - (flag p .c).toNat) := by
  have hc : (flag p .c).toNat ≤ 1 := by cases flag p .c <;> decide
  rw [w.toNat_xor_mask hm]
  omega

/-- ASL doubles at the width (43_alu.md R235). -/
theorem shiftLeft_value (w : Width) (p : Byte) (v : Word) :
    (shiftLeft w p v).value = BitVec.ofNat 16 (2 * v.toNat % (2 * 2 ^ (w.bits - 1))) := by
  apply BitVec.eq_of_toNat_eq
  simp only [shiftLeft]
  rw [Width.toNat_trunc, BitVec.toNat_shiftLeft, BitVec.toNat_ofNat, Nat.shiftLeft_eq]
  have := v.isLt
  cases w <;> simp [Width.bits] at * <;> omega

/-- LSR halves (43_alu.md R236). -/
theorem shiftRight_value (w : Width) (p : Byte) (v : Word) : (shiftRight w p v).value = BitVec.ofNat 16 (v.toNat / 2) := by
  apply BitVec.eq_of_toNat_eq
  have := v.isLt
  simp only [shiftRight]
  rw [BitVec.toNat_ushiftRight, BitVec.toNat_ofNat, Nat.shiftRight_eq_div_pow]
  omega

/-- A shift left with a bit brought in, as a sum. -/
theorem shiftLeft_or_bit (v : Word) (b : Bool) : ((v <<< 1) ||| (if b then 1 else 0)) = v + v + BitVec.ofNat 16 b.toNat := by
  have h : v <<< 1 = v + v := by
    apply BitVec.eq_of_toNat_eq
    rw [BitVec.toNat_shiftLeft, BitVec.toNat_add, Nat.shiftLeft_eq]
    congr 1
    omega
  cases b with
  | false => simp [h]
  | true =>
    have hd : v <<< 1 &&& (1 : Word) = 0 := by
      apply BitVec.eq_of_toNat_eq
      rw [h, BitVec.toNat_and, BitVec.toNat_add]
      show (v.toNat + v.toNat) % 65536 &&& 1 = 0
      rw [Nat.and_one_is_mod]
      omega
    rw [← h]
    simp only [if_true, Bool.toNat_true]
    exact (BitVec.add_eq_or_of_and_eq_zero _ _ hd).symm

/-- ROL doubles and brings C in at the bottom (43_alu.md R237). -/
theorem rotateLeft_value (w : Width) (p : Byte) (v : Word) :
    (rotateLeft w p v).value = BitVec.ofNat 16 ((2 * v.toNat + (flag p .c).toNat) % (2 * 2 ^ (w.bits - 1))) := by
  apply BitVec.eq_of_toNat_eq
  have := v.isLt
  have hc : (flag p .c).toNat ≤ 1 := by cases flag p .c <;> decide
  simp only [rotateLeft]
  rw [Width.toNat_trunc, shiftLeft_or_bit, BitVec.toNat_add, BitVec.toNat_add, BitVec.toNat_ofNat, BitVec.toNat_ofNat]
  cases w <;> simp [Width.bits] at * <;> omega

/-- ROR halves and brings C in at the top (43_alu.md R238). -/
theorem rotateRight_value (w : Width) (p : Byte) {v : Word} (h : v.toNat < 2 ^ w.bits) :
    (rotateRight w p v).value = BitVec.ofNat 16 (v.toNat / 2 + (flag p .c).toNat * 2 ^ (w.bits - 1)) := by
  have hs : v >>> 1 = BitVec.ofNat 16 (v.toNat / 2) := shiftRight_value w p v
  simp only [rotateRight]
  cases flag p .c with
  | false => simp [hs]
  | true =>
    simp only [if_true, Bool.toNat_true]
    have hd : v >>> 1 &&& w.sign = 0 := by
      apply BitVec.eq_of_getLsbD_eq
      intro i hi
      rw [BitVec.getLsbD_and, Width.getLsbD_sign w hi]
      by_cases hw : i = w.bits - 1
      · subst hw
        have hb := w.bits_pos
        have hv : v.getLsbD (1 + (w.bits - 1)) = false := by
          rw [show 1 + (w.bits - 1) = w.bits by omega, BitVec.getLsbD]
          exact Nat.testBit_lt_two_pow h
        rw [BitVec.getLsbD_ushiftRight, hv]
        simp
      · simp [hw]
    rw [← BitVec.add_eq_or_of_and_eq_zero _ _ hd]
    apply BitVec.eq_of_toNat_eq
    rw [BitVec.toNat_add, hs, BitVec.toNat_ofNat, BitVec.toNat_ofNat]
    cases w <;> simp [Width.bits, Width.sign] at *

end Machine

end Sys2Proof
end

