-- ==== Sys2Proof/Laws/PerInstr.lean ====
section
/-! SUPPORT. Per instruction: its bytes, read through the row of the opcode map that its first byte names, give the
instruction back, and their number is what that row takes (30_encoding.md R101, R102, R105). -/

namespace Sys2Proof.Laws.Fields

/-- The bytes of an instruction: the opcode map's row of the first, fed the others, is the instruction, and counts them. -/
def Statement (i : Instr) : Prop :=
  ∀ m x, i.wellFormed m x = true →
    (opcodeMap i.opcode ⟨m, x, (encode i).getD 1 0, (encode i).getD 2 0, (encode i).getD 3 0⟩).2 = i ∧
      (encode i).length = 1 + operandCount m x i.opcode

theorem brk (sig : Byte) : Statement (.brk sig) := fun m x _ =>
  (⟨rfl, rfl⟩ : (opcodeMap 0x00 ⟨m, x, sig, 0, 0⟩).2 = .brk sig ∧ 2 = 1 + operandCount m x 0x00)
theorem oraDpIndX (off : Byte) : Statement (.oraDpIndX off) := fun m x _ =>
  (⟨rfl, rfl⟩ : (opcodeMap 0x01 ⟨m, x, off, 0, 0⟩).2 = .oraDpIndX off ∧ 2 = 1 + operandCount m x 0x01)
theorem cop (sig : Byte) : Statement (.cop sig) := fun m x _ =>
  (⟨rfl, rfl⟩ : (opcodeMap 0x02 ⟨m, x, sig, 0, 0⟩).2 = .cop sig ∧ 2 = 1 + operandCount m x 0x02)
theorem oraSr (off : Byte) : Statement (.oraSr off) := fun m x _ =>
  (⟨rfl, rfl⟩ : (opcodeMap 0x03 ⟨m, x, off, 0, 0⟩).2 = .oraSr off ∧ 2 = 1 + operandCount m x 0x03)
theorem tsbDp (off : Byte) : Statement (.tsbDp off) := fun m x _ =>
  (⟨rfl, rfl⟩ : (opcodeMap 0x04 ⟨m, x, off, 0, 0⟩).2 = .tsbDp off ∧ 2 = 1 + operandCount m x 0x04)
theorem oraDp (off : Byte) : Statement (.oraDp off) := fun m x _ =>
  (⟨rfl, rfl⟩ : (opcodeMap 0x05 ⟨m, x, off, 0, 0⟩).2 = .oraDp off ∧ 2 = 1 + operandCount m x 0x05)
theorem aslDp (off : Byte) : Statement (.aslDp off) := fun m x _ =>
  (⟨rfl, rfl⟩ : (opcodeMap 0x06 ⟨m, x, off, 0, 0⟩).2 = .aslDp off ∧ 2 = 1 + operandCount m x 0x06)
theorem oraDpIndL (off : Byte) : Statement (.oraDpIndL off) := fun m x _ =>
  (⟨rfl, rfl⟩ : (opcodeMap 0x07 ⟨m, x, off, 0, 0⟩).2 = .oraDpIndL off ∧ 2 = 1 + operandCount m x 0x07)
theorem php : Statement .php := fun m x _ =>
  (⟨rfl, rfl⟩ : (opcodeMap 0x08 ⟨m, x, 0, 0, 0⟩).2 = .php ∧ 1 = 1 + operandCount m x 0x08)
theorem oraImm (v : Imm) : Statement (.oraImm v) := by
  intro m x h
  cases v with
  | byte v =>
    obtain rfl : m = true := h
    exact (⟨rfl, rfl⟩ : (opcodeMap 0x09 ⟨true, x, v, 0, 0⟩).2 = .oraImm (.byte v) ∧ 2 = 1 + operandCount true x 0x09)
  | word v =>
    obtain rfl : m = false := by simpa [Instr.wellFormed, Imm.fits] using h
    exact (⟨congrArg (fun v => Instr.oraImm (.word v)) (mkWord_hiByte_loByte v), rfl⟩ :
      (opcodeMap 0x09 ⟨false, x, loByte v, hiByte v, 0⟩).2 = .oraImm (.word v) ∧
        3 = 1 + operandCount false x 0x09)
theorem aslAcc : Statement .aslAcc := fun m x _ =>
  (⟨rfl, rfl⟩ : (opcodeMap 0x0A ⟨m, x, 0, 0, 0⟩).2 = .aslAcc ∧ 1 = 1 + operandCount m x 0x0A)
theorem phd : Statement .phd := fun m x _ =>
  (⟨rfl, rfl⟩ : (opcodeMap 0x0B ⟨m, x, 0, 0, 0⟩).2 = .phd ∧ 1 = 1 + operandCount m x 0x0B)
theorem tsbAbs (addr : Word) : Statement (.tsbAbs addr) := fun m x _ =>
  (⟨congrArg Instr.tsbAbs (mkWord_hiByte_loByte addr), rfl⟩ : (opcodeMap 0x0C ⟨m, x, loByte addr, hiByte addr, 0⟩).2 = .tsbAbs addr ∧ 3 = 1 + operandCount m x 0x0C)
theorem oraAbs (addr : Word) : Statement (.oraAbs addr) := fun m x _ =>
  (⟨congrArg Instr.oraAbs (mkWord_hiByte_loByte addr), rfl⟩ : (opcodeMap 0x0D ⟨m, x, loByte addr, hiByte addr, 0⟩).2 = .oraAbs addr ∧ 3 = 1 + operandCount m x 0x0D)
theorem aslAbs (addr : Word) : Statement (.aslAbs addr) := fun m x _ =>
  (⟨congrArg Instr.aslAbs (mkWord_hiByte_loByte addr), rfl⟩ : (opcodeMap 0x0E ⟨m, x, loByte addr, hiByte addr, 0⟩).2 = .aslAbs addr ∧ 3 = 1 + operandCount m x 0x0E)
theorem oraLong (addr : Addr) : Statement (.oraLong addr) := fun m x _ =>
  (⟨congrArg Instr.oraLong (mkLong_bytes addr), rfl⟩ : (opcodeMap 0x0F ⟨m, x, loByte addr.offset, hiByte addr.offset, addr.bank⟩).2 = .oraLong addr ∧ 4 = 1 + operandCount m x 0x0F)
theorem bpl (off : Byte) : Statement (.bpl off) := fun m x _ =>
  (⟨rfl, rfl⟩ : (opcodeMap 0x10 ⟨m, x, off, 0, 0⟩).2 = .bpl off ∧ 2 = 1 + operandCount m x 0x10)
theorem oraDpIndY (off : Byte) : Statement (.oraDpIndY off) := fun m x _ =>
  (⟨rfl, rfl⟩ : (opcodeMap 0x11 ⟨m, x, off, 0, 0⟩).2 = .oraDpIndY off ∧ 2 = 1 + operandCount m x 0x11)
theorem oraDpInd (off : Byte) : Statement (.oraDpInd off) := fun m x _ =>
  (⟨rfl, rfl⟩ : (opcodeMap 0x12 ⟨m, x, off, 0, 0⟩).2 = .oraDpInd off ∧ 2 = 1 + operandCount m x 0x12)
theorem oraSrIndY (off : Byte) : Statement (.oraSrIndY off) := fun m x _ =>
  (⟨rfl, rfl⟩ : (opcodeMap 0x13 ⟨m, x, off, 0, 0⟩).2 = .oraSrIndY off ∧ 2 = 1 + operandCount m x 0x13)
theorem trbDp (off : Byte) : Statement (.trbDp off) := fun m x _ =>
  (⟨rfl, rfl⟩ : (opcodeMap 0x14 ⟨m, x, off, 0, 0⟩).2 = .trbDp off ∧ 2 = 1 + operandCount m x 0x14)
theorem oraDpX (off : Byte) : Statement (.oraDpX off) := fun m x _ =>
  (⟨rfl, rfl⟩ : (opcodeMap 0x15 ⟨m, x, off, 0, 0⟩).2 = .oraDpX off ∧ 2 = 1 + operandCount m x 0x15)
theorem aslDpX (off : Byte) : Statement (.aslDpX off) := fun m x _ =>
  (⟨rfl, rfl⟩ : (opcodeMap 0x16 ⟨m, x, off, 0, 0⟩).2 = .aslDpX off ∧ 2 = 1 + operandCount m x 0x16)
theorem oraDpIndLY (off : Byte) : Statement (.oraDpIndLY off) := fun m x _ =>
  (⟨rfl, rfl⟩ : (opcodeMap 0x17 ⟨m, x, off, 0, 0⟩).2 = .oraDpIndLY off ∧ 2 = 1 + operandCount m x 0x17)
theorem clc : Statement .clc := fun m x _ =>
  (⟨rfl, rfl⟩ : (opcodeMap 0x18 ⟨m, x, 0, 0, 0⟩).2 = .clc ∧ 1 = 1 + operandCount m x 0x18)
theorem oraAbsY (addr : Word) : Statement (.oraAbsY addr) := fun m x _ =>
  (⟨congrArg Instr.oraAbsY (mkWord_hiByte_loByte addr), rfl⟩ : (opcodeMap 0x19 ⟨m, x, loByte addr, hiByte addr, 0⟩).2 = .oraAbsY addr ∧ 3 = 1 + operandCount m x 0x19)
theorem incAcc : Statement .incAcc := fun m x _ =>
  (⟨rfl, rfl⟩ : (opcodeMap 0x1A ⟨m, x, 0, 0, 0⟩).2 = .incAcc ∧ 1 = 1 + operandCount m x 0x1A)
theorem tcs : Statement .tcs := fun m x _ =>
  (⟨rfl, rfl⟩ : (opcodeMap 0x1B ⟨m, x, 0, 0, 0⟩).2 = .tcs ∧ 1 = 1 + operandCount m x 0x1B)
theorem trbAbs (addr : Word) : Statement (.trbAbs addr) := fun m x _ =>
  (⟨congrArg Instr.trbAbs (mkWord_hiByte_loByte addr), rfl⟩ : (opcodeMap 0x1C ⟨m, x, loByte addr, hiByte addr, 0⟩).2 = .trbAbs addr ∧ 3 = 1 + operandCount m x 0x1C)
theorem oraAbsX (addr : Word) : Statement (.oraAbsX addr) := fun m x _ =>
  (⟨congrArg Instr.oraAbsX (mkWord_hiByte_loByte addr), rfl⟩ : (opcodeMap 0x1D ⟨m, x, loByte addr, hiByte addr, 0⟩).2 = .oraAbsX addr ∧ 3 = 1 + operandCount m x 0x1D)
theorem aslAbsX (addr : Word) : Statement (.aslAbsX addr) := fun m x _ =>
  (⟨congrArg Instr.aslAbsX (mkWord_hiByte_loByte addr), rfl⟩ : (opcodeMap 0x1E ⟨m, x, loByte addr, hiByte addr, 0⟩).2 = .aslAbsX addr ∧ 3 = 1 + operandCount m x 0x1E)
theorem oraLongX (addr : Addr) : Statement (.oraLongX addr) := fun m x _ =>
  (⟨congrArg Instr.oraLongX (mkLong_bytes addr), rfl⟩ : (opcodeMap 0x1F ⟨m, x, loByte addr.offset, hiByte addr.offset, addr.bank⟩).2 = .oraLongX addr ∧ 4 = 1 + operandCount m x 0x1F)
theorem jsrAbs (addr : Word) : Statement (.jsrAbs addr) := fun m x _ =>
  (⟨congrArg Instr.jsrAbs (mkWord_hiByte_loByte addr), rfl⟩ : (opcodeMap 0x20 ⟨m, x, loByte addr, hiByte addr, 0⟩).2 = .jsrAbs addr ∧ 3 = 1 + operandCount m x 0x20)
theorem andDpIndX (off : Byte) : Statement (.andDpIndX off) := fun m x _ =>
  (⟨rfl, rfl⟩ : (opcodeMap 0x21 ⟨m, x, off, 0, 0⟩).2 = .andDpIndX off ∧ 2 = 1 + operandCount m x 0x21)
theorem jsl (addr : Addr) : Statement (.jsl addr) := fun m x _ =>
  (⟨congrArg Instr.jsl (mkLong_bytes addr), rfl⟩ : (opcodeMap 0x22 ⟨m, x, loByte addr.offset, hiByte addr.offset, addr.bank⟩).2 = .jsl addr ∧ 4 = 1 + operandCount m x 0x22)
theorem andSr (off : Byte) : Statement (.andSr off) := fun m x _ =>
  (⟨rfl, rfl⟩ : (opcodeMap 0x23 ⟨m, x, off, 0, 0⟩).2 = .andSr off ∧ 2 = 1 + operandCount m x 0x23)
theorem bitDp (off : Byte) : Statement (.bitDp off) := fun m x _ =>
  (⟨rfl, rfl⟩ : (opcodeMap 0x24 ⟨m, x, off, 0, 0⟩).2 = .bitDp off ∧ 2 = 1 + operandCount m x 0x24)
theorem andDp (off : Byte) : Statement (.andDp off) := fun m x _ =>
  (⟨rfl, rfl⟩ : (opcodeMap 0x25 ⟨m, x, off, 0, 0⟩).2 = .andDp off ∧ 2 = 1 + operandCount m x 0x25)
theorem rolDp (off : Byte) : Statement (.rolDp off) := fun m x _ =>
  (⟨rfl, rfl⟩ : (opcodeMap 0x26 ⟨m, x, off, 0, 0⟩).2 = .rolDp off ∧ 2 = 1 + operandCount m x 0x26)
theorem andDpIndL (off : Byte) : Statement (.andDpIndL off) := fun m x _ =>
  (⟨rfl, rfl⟩ : (opcodeMap 0x27 ⟨m, x, off, 0, 0⟩).2 = .andDpIndL off ∧ 2 = 1 + operandCount m x 0x27)
theorem plp : Statement .plp := fun m x _ =>
  (⟨rfl, rfl⟩ : (opcodeMap 0x28 ⟨m, x, 0, 0, 0⟩).2 = .plp ∧ 1 = 1 + operandCount m x 0x28)
theorem andImm (v : Imm) : Statement (.andImm v) := by
  intro m x h
  cases v with
  | byte v =>
    obtain rfl : m = true := h
    exact (⟨rfl, rfl⟩ : (opcodeMap 0x29 ⟨true, x, v, 0, 0⟩).2 = .andImm (.byte v) ∧ 2 = 1 + operandCount true x 0x29)
  | word v =>
    obtain rfl : m = false := by simpa [Instr.wellFormed, Imm.fits] using h
    exact (⟨congrArg (fun v => Instr.andImm (.word v)) (mkWord_hiByte_loByte v), rfl⟩ :
      (opcodeMap 0x29 ⟨false, x, loByte v, hiByte v, 0⟩).2 = .andImm (.word v) ∧
        3 = 1 + operandCount false x 0x29)
theorem rolAcc : Statement .rolAcc := fun m x _ =>
  (⟨rfl, rfl⟩ : (opcodeMap 0x2A ⟨m, x, 0, 0, 0⟩).2 = .rolAcc ∧ 1 = 1 + operandCount m x 0x2A)
theorem pld : Statement .pld := fun m x _ =>
  (⟨rfl, rfl⟩ : (opcodeMap 0x2B ⟨m, x, 0, 0, 0⟩).2 = .pld ∧ 1 = 1 + operandCount m x 0x2B)
theorem bitAbs (addr : Word) : Statement (.bitAbs addr) := fun m x _ =>
  (⟨congrArg Instr.bitAbs (mkWord_hiByte_loByte addr), rfl⟩ : (opcodeMap 0x2C ⟨m, x, loByte addr, hiByte addr, 0⟩).2 = .bitAbs addr ∧ 3 = 1 + operandCount m x 0x2C)
theorem andAbs (addr : Word) : Statement (.andAbs addr) := fun m x _ =>
  (⟨congrArg Instr.andAbs (mkWord_hiByte_loByte addr), rfl⟩ : (opcodeMap 0x2D ⟨m, x, loByte addr, hiByte addr, 0⟩).2 = .andAbs addr ∧ 3 = 1 + operandCount m x 0x2D)
theorem rolAbs (addr : Word) : Statement (.rolAbs addr) := fun m x _ =>
  (⟨congrArg Instr.rolAbs (mkWord_hiByte_loByte addr), rfl⟩ : (opcodeMap 0x2E ⟨m, x, loByte addr, hiByte addr, 0⟩).2 = .rolAbs addr ∧ 3 = 1 + operandCount m x 0x2E)
theorem andLong (addr : Addr) : Statement (.andLong addr) := fun m x _ =>
  (⟨congrArg Instr.andLong (mkLong_bytes addr), rfl⟩ : (opcodeMap 0x2F ⟨m, x, loByte addr.offset, hiByte addr.offset, addr.bank⟩).2 = .andLong addr ∧ 4 = 1 + operandCount m x 0x2F)
theorem bmi (off : Byte) : Statement (.bmi off) := fun m x _ =>
  (⟨rfl, rfl⟩ : (opcodeMap 0x30 ⟨m, x, off, 0, 0⟩).2 = .bmi off ∧ 2 = 1 + operandCount m x 0x30)
theorem andDpIndY (off : Byte) : Statement (.andDpIndY off) := fun m x _ =>
  (⟨rfl, rfl⟩ : (opcodeMap 0x31 ⟨m, x, off, 0, 0⟩).2 = .andDpIndY off ∧ 2 = 1 + operandCount m x 0x31)
theorem andDpInd (off : Byte) : Statement (.andDpInd off) := fun m x _ =>
  (⟨rfl, rfl⟩ : (opcodeMap 0x32 ⟨m, x, off, 0, 0⟩).2 = .andDpInd off ∧ 2 = 1 + operandCount m x 0x32)
theorem andSrIndY (off : Byte) : Statement (.andSrIndY off) := fun m x _ =>
  (⟨rfl, rfl⟩ : (opcodeMap 0x33 ⟨m, x, off, 0, 0⟩).2 = .andSrIndY off ∧ 2 = 1 + operandCount m x 0x33)
theorem bitDpX (off : Byte) : Statement (.bitDpX off) := fun m x _ =>
  (⟨rfl, rfl⟩ : (opcodeMap 0x34 ⟨m, x, off, 0, 0⟩).2 = .bitDpX off ∧ 2 = 1 + operandCount m x 0x34)
theorem andDpX (off : Byte) : Statement (.andDpX off) := fun m x _ =>
  (⟨rfl, rfl⟩ : (opcodeMap 0x35 ⟨m, x, off, 0, 0⟩).2 = .andDpX off ∧ 2 = 1 + operandCount m x 0x35)
theorem rolDpX (off : Byte) : Statement (.rolDpX off) := fun m x _ =>
  (⟨rfl, rfl⟩ : (opcodeMap 0x36 ⟨m, x, off, 0, 0⟩).2 = .rolDpX off ∧ 2 = 1 + operandCount m x 0x36)
theorem andDpIndLY (off : Byte) : Statement (.andDpIndLY off) := fun m x _ =>
  (⟨rfl, rfl⟩ : (opcodeMap 0x37 ⟨m, x, off, 0, 0⟩).2 = .andDpIndLY off ∧ 2 = 1 + operandCount m x 0x37)
theorem sec : Statement .sec := fun m x _ =>
  (⟨rfl, rfl⟩ : (opcodeMap 0x38 ⟨m, x, 0, 0, 0⟩).2 = .sec ∧ 1 = 1 + operandCount m x 0x38)
theorem andAbsY (addr : Word) : Statement (.andAbsY addr) := fun m x _ =>
  (⟨congrArg Instr.andAbsY (mkWord_hiByte_loByte addr), rfl⟩ : (opcodeMap 0x39 ⟨m, x, loByte addr, hiByte addr, 0⟩).2 = .andAbsY addr ∧ 3 = 1 + operandCount m x 0x39)
theorem decAcc : Statement .decAcc := fun m x _ =>
  (⟨rfl, rfl⟩ : (opcodeMap 0x3A ⟨m, x, 0, 0, 0⟩).2 = .decAcc ∧ 1 = 1 + operandCount m x 0x3A)
theorem tsc : Statement .tsc := fun m x _ =>
  (⟨rfl, rfl⟩ : (opcodeMap 0x3B ⟨m, x, 0, 0, 0⟩).2 = .tsc ∧ 1 = 1 + operandCount m x 0x3B)
theorem bitAbsX (addr : Word) : Statement (.bitAbsX addr) := fun m x _ =>
  (⟨congrArg Instr.bitAbsX (mkWord_hiByte_loByte addr), rfl⟩ : (opcodeMap 0x3C ⟨m, x, loByte addr, hiByte addr, 0⟩).2 = .bitAbsX addr ∧ 3 = 1 + operandCount m x 0x3C)
theorem andAbsX (addr : Word) : Statement (.andAbsX addr) := fun m x _ =>
  (⟨congrArg Instr.andAbsX (mkWord_hiByte_loByte addr), rfl⟩ : (opcodeMap 0x3D ⟨m, x, loByte addr, hiByte addr, 0⟩).2 = .andAbsX addr ∧ 3 = 1 + operandCount m x 0x3D)
theorem rolAbsX (addr : Word) : Statement (.rolAbsX addr) := fun m x _ =>
  (⟨congrArg Instr.rolAbsX (mkWord_hiByte_loByte addr), rfl⟩ : (opcodeMap 0x3E ⟨m, x, loByte addr, hiByte addr, 0⟩).2 = .rolAbsX addr ∧ 3 = 1 + operandCount m x 0x3E)
theorem andLongX (addr : Addr) : Statement (.andLongX addr) := fun m x _ =>
  (⟨congrArg Instr.andLongX (mkLong_bytes addr), rfl⟩ : (opcodeMap 0x3F ⟨m, x, loByte addr.offset, hiByte addr.offset, addr.bank⟩).2 = .andLongX addr ∧ 4 = 1 + operandCount m x 0x3F)
theorem rti : Statement .rti := fun m x _ =>
  (⟨rfl, rfl⟩ : (opcodeMap 0x40 ⟨m, x, 0, 0, 0⟩).2 = .rti ∧ 1 = 1 + operandCount m x 0x40)
theorem eorDpIndX (off : Byte) : Statement (.eorDpIndX off) := fun m x _ =>
  (⟨rfl, rfl⟩ : (opcodeMap 0x41 ⟨m, x, off, 0, 0⟩).2 = .eorDpIndX off ∧ 2 = 1 + operandCount m x 0x41)
theorem wdm (sig : Byte) : Statement (.wdm sig) := fun m x _ =>
  (⟨rfl, rfl⟩ : (opcodeMap 0x42 ⟨m, x, sig, 0, 0⟩).2 = .wdm sig ∧ 2 = 1 + operandCount m x 0x42)
theorem eorSr (off : Byte) : Statement (.eorSr off) := fun m x _ =>
  (⟨rfl, rfl⟩ : (opcodeMap 0x43 ⟨m, x, off, 0, 0⟩).2 = .eorSr off ∧ 2 = 1 + operandCount m x 0x43)
theorem mvp (dst : Byte) (src : Byte) : Statement (.mvp dst src) := fun m x _ =>
  (⟨rfl, rfl⟩ : (opcodeMap 0x44 ⟨m, x, dst, src, 0⟩).2 = .mvp dst src ∧ 3 = 1 + operandCount m x 0x44)
theorem eorDp (off : Byte) : Statement (.eorDp off) := fun m x _ =>
  (⟨rfl, rfl⟩ : (opcodeMap 0x45 ⟨m, x, off, 0, 0⟩).2 = .eorDp off ∧ 2 = 1 + operandCount m x 0x45)
theorem lsrDp (off : Byte) : Statement (.lsrDp off) := fun m x _ =>
  (⟨rfl, rfl⟩ : (opcodeMap 0x46 ⟨m, x, off, 0, 0⟩).2 = .lsrDp off ∧ 2 = 1 + operandCount m x 0x46)
theorem eorDpIndL (off : Byte) : Statement (.eorDpIndL off) := fun m x _ =>
  (⟨rfl, rfl⟩ : (opcodeMap 0x47 ⟨m, x, off, 0, 0⟩).2 = .eorDpIndL off ∧ 2 = 1 + operandCount m x 0x47)
theorem pha : Statement .pha := fun m x _ =>
  (⟨rfl, rfl⟩ : (opcodeMap 0x48 ⟨m, x, 0, 0, 0⟩).2 = .pha ∧ 1 = 1 + operandCount m x 0x48)
theorem eorImm (v : Imm) : Statement (.eorImm v) := by
  intro m x h
  cases v with
  | byte v =>
    obtain rfl : m = true := h
    exact (⟨rfl, rfl⟩ : (opcodeMap 0x49 ⟨true, x, v, 0, 0⟩).2 = .eorImm (.byte v) ∧ 2 = 1 + operandCount true x 0x49)
  | word v =>
    obtain rfl : m = false := by simpa [Instr.wellFormed, Imm.fits] using h
    exact (⟨congrArg (fun v => Instr.eorImm (.word v)) (mkWord_hiByte_loByte v), rfl⟩ :
      (opcodeMap 0x49 ⟨false, x, loByte v, hiByte v, 0⟩).2 = .eorImm (.word v) ∧
        3 = 1 + operandCount false x 0x49)
theorem lsrAcc : Statement .lsrAcc := fun m x _ =>
  (⟨rfl, rfl⟩ : (opcodeMap 0x4A ⟨m, x, 0, 0, 0⟩).2 = .lsrAcc ∧ 1 = 1 + operandCount m x 0x4A)
theorem phk : Statement .phk := fun m x _ =>
  (⟨rfl, rfl⟩ : (opcodeMap 0x4B ⟨m, x, 0, 0, 0⟩).2 = .phk ∧ 1 = 1 + operandCount m x 0x4B)
theorem jmpAbs (addr : Word) : Statement (.jmpAbs addr) := fun m x _ =>
  (⟨congrArg Instr.jmpAbs (mkWord_hiByte_loByte addr), rfl⟩ : (opcodeMap 0x4C ⟨m, x, loByte addr, hiByte addr, 0⟩).2 = .jmpAbs addr ∧ 3 = 1 + operandCount m x 0x4C)
theorem eorAbs (addr : Word) : Statement (.eorAbs addr) := fun m x _ =>
  (⟨congrArg Instr.eorAbs (mkWord_hiByte_loByte addr), rfl⟩ : (opcodeMap 0x4D ⟨m, x, loByte addr, hiByte addr, 0⟩).2 = .eorAbs addr ∧ 3 = 1 + operandCount m x 0x4D)
theorem lsrAbs (addr : Word) : Statement (.lsrAbs addr) := fun m x _ =>
  (⟨congrArg Instr.lsrAbs (mkWord_hiByte_loByte addr), rfl⟩ : (opcodeMap 0x4E ⟨m, x, loByte addr, hiByte addr, 0⟩).2 = .lsrAbs addr ∧ 3 = 1 + operandCount m x 0x4E)
theorem eorLong (addr : Addr) : Statement (.eorLong addr) := fun m x _ =>
  (⟨congrArg Instr.eorLong (mkLong_bytes addr), rfl⟩ : (opcodeMap 0x4F ⟨m, x, loByte addr.offset, hiByte addr.offset, addr.bank⟩).2 = .eorLong addr ∧ 4 = 1 + operandCount m x 0x4F)
theorem bvc (off : Byte) : Statement (.bvc off) := fun m x _ =>
  (⟨rfl, rfl⟩ : (opcodeMap 0x50 ⟨m, x, off, 0, 0⟩).2 = .bvc off ∧ 2 = 1 + operandCount m x 0x50)
theorem eorDpIndY (off : Byte) : Statement (.eorDpIndY off) := fun m x _ =>
  (⟨rfl, rfl⟩ : (opcodeMap 0x51 ⟨m, x, off, 0, 0⟩).2 = .eorDpIndY off ∧ 2 = 1 + operandCount m x 0x51)
theorem eorDpInd (off : Byte) : Statement (.eorDpInd off) := fun m x _ =>
  (⟨rfl, rfl⟩ : (opcodeMap 0x52 ⟨m, x, off, 0, 0⟩).2 = .eorDpInd off ∧ 2 = 1 + operandCount m x 0x52)
theorem eorSrIndY (off : Byte) : Statement (.eorSrIndY off) := fun m x _ =>
  (⟨rfl, rfl⟩ : (opcodeMap 0x53 ⟨m, x, off, 0, 0⟩).2 = .eorSrIndY off ∧ 2 = 1 + operandCount m x 0x53)
theorem mvn (dst : Byte) (src : Byte) : Statement (.mvn dst src) := fun m x _ =>
  (⟨rfl, rfl⟩ : (opcodeMap 0x54 ⟨m, x, dst, src, 0⟩).2 = .mvn dst src ∧ 3 = 1 + operandCount m x 0x54)
theorem eorDpX (off : Byte) : Statement (.eorDpX off) := fun m x _ =>
  (⟨rfl, rfl⟩ : (opcodeMap 0x55 ⟨m, x, off, 0, 0⟩).2 = .eorDpX off ∧ 2 = 1 + operandCount m x 0x55)
theorem lsrDpX (off : Byte) : Statement (.lsrDpX off) := fun m x _ =>
  (⟨rfl, rfl⟩ : (opcodeMap 0x56 ⟨m, x, off, 0, 0⟩).2 = .lsrDpX off ∧ 2 = 1 + operandCount m x 0x56)
theorem eorDpIndLY (off : Byte) : Statement (.eorDpIndLY off) := fun m x _ =>
  (⟨rfl, rfl⟩ : (opcodeMap 0x57 ⟨m, x, off, 0, 0⟩).2 = .eorDpIndLY off ∧ 2 = 1 + operandCount m x 0x57)
theorem cli : Statement .cli := fun m x _ =>
  (⟨rfl, rfl⟩ : (opcodeMap 0x58 ⟨m, x, 0, 0, 0⟩).2 = .cli ∧ 1 = 1 + operandCount m x 0x58)
theorem eorAbsY (addr : Word) : Statement (.eorAbsY addr) := fun m x _ =>
  (⟨congrArg Instr.eorAbsY (mkWord_hiByte_loByte addr), rfl⟩ : (opcodeMap 0x59 ⟨m, x, loByte addr, hiByte addr, 0⟩).2 = .eorAbsY addr ∧ 3 = 1 + operandCount m x 0x59)
theorem phy : Statement .phy := fun m x _ =>
  (⟨rfl, rfl⟩ : (opcodeMap 0x5A ⟨m, x, 0, 0, 0⟩).2 = .phy ∧ 1 = 1 + operandCount m x 0x5A)
theorem tcd : Statement .tcd := fun m x _ =>
  (⟨rfl, rfl⟩ : (opcodeMap 0x5B ⟨m, x, 0, 0, 0⟩).2 = .tcd ∧ 1 = 1 + operandCount m x 0x5B)
theorem jmlLong (addr : Addr) : Statement (.jmlLong addr) := fun m x _ =>
  (⟨congrArg Instr.jmlLong (mkLong_bytes addr), rfl⟩ : (opcodeMap 0x5C ⟨m, x, loByte addr.offset, hiByte addr.offset, addr.bank⟩).2 = .jmlLong addr ∧ 4 = 1 + operandCount m x 0x5C)
theorem eorAbsX (addr : Word) : Statement (.eorAbsX addr) := fun m x _ =>
  (⟨congrArg Instr.eorAbsX (mkWord_hiByte_loByte addr), rfl⟩ : (opcodeMap 0x5D ⟨m, x, loByte addr, hiByte addr, 0⟩).2 = .eorAbsX addr ∧ 3 = 1 + operandCount m x 0x5D)
theorem lsrAbsX (addr : Word) : Statement (.lsrAbsX addr) := fun m x _ =>
  (⟨congrArg Instr.lsrAbsX (mkWord_hiByte_loByte addr), rfl⟩ : (opcodeMap 0x5E ⟨m, x, loByte addr, hiByte addr, 0⟩).2 = .lsrAbsX addr ∧ 3 = 1 + operandCount m x 0x5E)
theorem eorLongX (addr : Addr) : Statement (.eorLongX addr) := fun m x _ =>
  (⟨congrArg Instr.eorLongX (mkLong_bytes addr), rfl⟩ : (opcodeMap 0x5F ⟨m, x, loByte addr.offset, hiByte addr.offset, addr.bank⟩).2 = .eorLongX addr ∧ 4 = 1 + operandCount m x 0x5F)
theorem rts : Statement .rts := fun m x _ =>
  (⟨rfl, rfl⟩ : (opcodeMap 0x60 ⟨m, x, 0, 0, 0⟩).2 = .rts ∧ 1 = 1 + operandCount m x 0x60)
theorem adcDpIndX (off : Byte) : Statement (.adcDpIndX off) := fun m x _ =>
  (⟨rfl, rfl⟩ : (opcodeMap 0x61 ⟨m, x, off, 0, 0⟩).2 = .adcDpIndX off ∧ 2 = 1 + operandCount m x 0x61)
theorem per (off : Word) : Statement (.per off) := fun m x _ =>
  (⟨congrArg Instr.per (mkWord_hiByte_loByte off), rfl⟩ : (opcodeMap 0x62 ⟨m, x, loByte off, hiByte off, 0⟩).2 = .per off ∧ 3 = 1 + operandCount m x 0x62)
theorem adcSr (off : Byte) : Statement (.adcSr off) := fun m x _ =>
  (⟨rfl, rfl⟩ : (opcodeMap 0x63 ⟨m, x, off, 0, 0⟩).2 = .adcSr off ∧ 2 = 1 + operandCount m x 0x63)
theorem stzDp (off : Byte) : Statement (.stzDp off) := fun m x _ =>
  (⟨rfl, rfl⟩ : (opcodeMap 0x64 ⟨m, x, off, 0, 0⟩).2 = .stzDp off ∧ 2 = 1 + operandCount m x 0x64)
theorem adcDp (off : Byte) : Statement (.adcDp off) := fun m x _ =>
  (⟨rfl, rfl⟩ : (opcodeMap 0x65 ⟨m, x, off, 0, 0⟩).2 = .adcDp off ∧ 2 = 1 + operandCount m x 0x65)
theorem rorDp (off : Byte) : Statement (.rorDp off) := fun m x _ =>
  (⟨rfl, rfl⟩ : (opcodeMap 0x66 ⟨m, x, off, 0, 0⟩).2 = .rorDp off ∧ 2 = 1 + operandCount m x 0x66)
theorem adcDpIndL (off : Byte) : Statement (.adcDpIndL off) := fun m x _ =>
  (⟨rfl, rfl⟩ : (opcodeMap 0x67 ⟨m, x, off, 0, 0⟩).2 = .adcDpIndL off ∧ 2 = 1 + operandCount m x 0x67)
theorem pla : Statement .pla := fun m x _ =>
  (⟨rfl, rfl⟩ : (opcodeMap 0x68 ⟨m, x, 0, 0, 0⟩).2 = .pla ∧ 1 = 1 + operandCount m x 0x68)
theorem adcImm (v : Imm) : Statement (.adcImm v) := by
  intro m x h
  cases v with
  | byte v =>
    obtain rfl : m = true := h
    exact (⟨rfl, rfl⟩ : (opcodeMap 0x69 ⟨true, x, v, 0, 0⟩).2 = .adcImm (.byte v) ∧ 2 = 1 + operandCount true x 0x69)
  | word v =>
    obtain rfl : m = false := by simpa [Instr.wellFormed, Imm.fits] using h
    exact (⟨congrArg (fun v => Instr.adcImm (.word v)) (mkWord_hiByte_loByte v), rfl⟩ :
      (opcodeMap 0x69 ⟨false, x, loByte v, hiByte v, 0⟩).2 = .adcImm (.word v) ∧
        3 = 1 + operandCount false x 0x69)
theorem rorAcc : Statement .rorAcc := fun m x _ =>
  (⟨rfl, rfl⟩ : (opcodeMap 0x6A ⟨m, x, 0, 0, 0⟩).2 = .rorAcc ∧ 1 = 1 + operandCount m x 0x6A)
theorem rtl : Statement .rtl := fun m x _ =>
  (⟨rfl, rfl⟩ : (opcodeMap 0x6B ⟨m, x, 0, 0, 0⟩).2 = .rtl ∧ 1 = 1 + operandCount m x 0x6B)
theorem jmpInd (addr : Word) : Statement (.jmpInd addr) := fun m x _ =>
  (⟨congrArg Instr.jmpInd (mkWord_hiByte_loByte addr), rfl⟩ : (opcodeMap 0x6C ⟨m, x, loByte addr, hiByte addr, 0⟩).2 = .jmpInd addr ∧ 3 = 1 + operandCount m x 0x6C)
theorem adcAbs (addr : Word) : Statement (.adcAbs addr) := fun m x _ =>
  (⟨congrArg Instr.adcAbs (mkWord_hiByte_loByte addr), rfl⟩ : (opcodeMap 0x6D ⟨m, x, loByte addr, hiByte addr, 0⟩).2 = .adcAbs addr ∧ 3 = 1 + operandCount m x 0x6D)
theorem rorAbs (addr : Word) : Statement (.rorAbs addr) := fun m x _ =>
  (⟨congrArg Instr.rorAbs (mkWord_hiByte_loByte addr), rfl⟩ : (opcodeMap 0x6E ⟨m, x, loByte addr, hiByte addr, 0⟩).2 = .rorAbs addr ∧ 3 = 1 + operandCount m x 0x6E)
theorem adcLong (addr : Addr) : Statement (.adcLong addr) := fun m x _ =>
  (⟨congrArg Instr.adcLong (mkLong_bytes addr), rfl⟩ : (opcodeMap 0x6F ⟨m, x, loByte addr.offset, hiByte addr.offset, addr.bank⟩).2 = .adcLong addr ∧ 4 = 1 + operandCount m x 0x6F)
theorem bvs (off : Byte) : Statement (.bvs off) := fun m x _ =>
  (⟨rfl, rfl⟩ : (opcodeMap 0x70 ⟨m, x, off, 0, 0⟩).2 = .bvs off ∧ 2 = 1 + operandCount m x 0x70)
theorem adcDpIndY (off : Byte) : Statement (.adcDpIndY off) := fun m x _ =>
  (⟨rfl, rfl⟩ : (opcodeMap 0x71 ⟨m, x, off, 0, 0⟩).2 = .adcDpIndY off ∧ 2 = 1 + operandCount m x 0x71)
theorem adcDpInd (off : Byte) : Statement (.adcDpInd off) := fun m x _ =>
  (⟨rfl, rfl⟩ : (opcodeMap 0x72 ⟨m, x, off, 0, 0⟩).2 = .adcDpInd off ∧ 2 = 1 + operandCount m x 0x72)
theorem adcSrIndY (off : Byte) : Statement (.adcSrIndY off) := fun m x _ =>
  (⟨rfl, rfl⟩ : (opcodeMap 0x73 ⟨m, x, off, 0, 0⟩).2 = .adcSrIndY off ∧ 2 = 1 + operandCount m x 0x73)
theorem stzDpX (off : Byte) : Statement (.stzDpX off) := fun m x _ =>
  (⟨rfl, rfl⟩ : (opcodeMap 0x74 ⟨m, x, off, 0, 0⟩).2 = .stzDpX off ∧ 2 = 1 + operandCount m x 0x74)
theorem adcDpX (off : Byte) : Statement (.adcDpX off) := fun m x _ =>
  (⟨rfl, rfl⟩ : (opcodeMap 0x75 ⟨m, x, off, 0, 0⟩).2 = .adcDpX off ∧ 2 = 1 + operandCount m x 0x75)
theorem rorDpX (off : Byte) : Statement (.rorDpX off) := fun m x _ =>
  (⟨rfl, rfl⟩ : (opcodeMap 0x76 ⟨m, x, off, 0, 0⟩).2 = .rorDpX off ∧ 2 = 1 + operandCount m x 0x76)
theorem adcDpIndLY (off : Byte) : Statement (.adcDpIndLY off) := fun m x _ =>
  (⟨rfl, rfl⟩ : (opcodeMap 0x77 ⟨m, x, off, 0, 0⟩).2 = .adcDpIndLY off ∧ 2 = 1 + operandCount m x 0x77)
theorem sei : Statement .sei := fun m x _ =>
  (⟨rfl, rfl⟩ : (opcodeMap 0x78 ⟨m, x, 0, 0, 0⟩).2 = .sei ∧ 1 = 1 + operandCount m x 0x78)
theorem adcAbsY (addr : Word) : Statement (.adcAbsY addr) := fun m x _ =>
  (⟨congrArg Instr.adcAbsY (mkWord_hiByte_loByte addr), rfl⟩ : (opcodeMap 0x79 ⟨m, x, loByte addr, hiByte addr, 0⟩).2 = .adcAbsY addr ∧ 3 = 1 + operandCount m x 0x79)
theorem ply : Statement .ply := fun m x _ =>
  (⟨rfl, rfl⟩ : (opcodeMap 0x7A ⟨m, x, 0, 0, 0⟩).2 = .ply ∧ 1 = 1 + operandCount m x 0x7A)
theorem tdc : Statement .tdc := fun m x _ =>
  (⟨rfl, rfl⟩ : (opcodeMap 0x7B ⟨m, x, 0, 0, 0⟩).2 = .tdc ∧ 1 = 1 + operandCount m x 0x7B)
theorem jmpIndX (addr : Word) : Statement (.jmpIndX addr) := fun m x _ =>
  (⟨congrArg Instr.jmpIndX (mkWord_hiByte_loByte addr), rfl⟩ : (opcodeMap 0x7C ⟨m, x, loByte addr, hiByte addr, 0⟩).2 = .jmpIndX addr ∧ 3 = 1 + operandCount m x 0x7C)
theorem adcAbsX (addr : Word) : Statement (.adcAbsX addr) := fun m x _ =>
  (⟨congrArg Instr.adcAbsX (mkWord_hiByte_loByte addr), rfl⟩ : (opcodeMap 0x7D ⟨m, x, loByte addr, hiByte addr, 0⟩).2 = .adcAbsX addr ∧ 3 = 1 + operandCount m x 0x7D)
theorem rorAbsX (addr : Word) : Statement (.rorAbsX addr) := fun m x _ =>
  (⟨congrArg Instr.rorAbsX (mkWord_hiByte_loByte addr), rfl⟩ : (opcodeMap 0x7E ⟨m, x, loByte addr, hiByte addr, 0⟩).2 = .rorAbsX addr ∧ 3 = 1 + operandCount m x 0x7E)
theorem adcLongX (addr : Addr) : Statement (.adcLongX addr) := fun m x _ =>
  (⟨congrArg Instr.adcLongX (mkLong_bytes addr), rfl⟩ : (opcodeMap 0x7F ⟨m, x, loByte addr.offset, hiByte addr.offset, addr.bank⟩).2 = .adcLongX addr ∧ 4 = 1 + operandCount m x 0x7F)
theorem bra (off : Byte) : Statement (.bra off) := fun m x _ =>
  (⟨rfl, rfl⟩ : (opcodeMap 0x80 ⟨m, x, off, 0, 0⟩).2 = .bra off ∧ 2 = 1 + operandCount m x 0x80)
theorem staDpIndX (off : Byte) : Statement (.staDpIndX off) := fun m x _ =>
  (⟨rfl, rfl⟩ : (opcodeMap 0x81 ⟨m, x, off, 0, 0⟩).2 = .staDpIndX off ∧ 2 = 1 + operandCount m x 0x81)
theorem brl (off : Word) : Statement (.brl off) := fun m x _ =>
  (⟨congrArg Instr.brl (mkWord_hiByte_loByte off), rfl⟩ : (opcodeMap 0x82 ⟨m, x, loByte off, hiByte off, 0⟩).2 = .brl off ∧ 3 = 1 + operandCount m x 0x82)
theorem staSr (off : Byte) : Statement (.staSr off) := fun m x _ =>
  (⟨rfl, rfl⟩ : (opcodeMap 0x83 ⟨m, x, off, 0, 0⟩).2 = .staSr off ∧ 2 = 1 + operandCount m x 0x83)
theorem styDp (off : Byte) : Statement (.styDp off) := fun m x _ =>
  (⟨rfl, rfl⟩ : (opcodeMap 0x84 ⟨m, x, off, 0, 0⟩).2 = .styDp off ∧ 2 = 1 + operandCount m x 0x84)
theorem staDp (off : Byte) : Statement (.staDp off) := fun m x _ =>
  (⟨rfl, rfl⟩ : (opcodeMap 0x85 ⟨m, x, off, 0, 0⟩).2 = .staDp off ∧ 2 = 1 + operandCount m x 0x85)
theorem stxDp (off : Byte) : Statement (.stxDp off) := fun m x _ =>
  (⟨rfl, rfl⟩ : (opcodeMap 0x86 ⟨m, x, off, 0, 0⟩).2 = .stxDp off ∧ 2 = 1 + operandCount m x 0x86)
theorem staDpIndL (off : Byte) : Statement (.staDpIndL off) := fun m x _ =>
  (⟨rfl, rfl⟩ : (opcodeMap 0x87 ⟨m, x, off, 0, 0⟩).2 = .staDpIndL off ∧ 2 = 1 + operandCount m x 0x87)
theorem dey : Statement .dey := fun m x _ =>
  (⟨rfl, rfl⟩ : (opcodeMap 0x88 ⟨m, x, 0, 0, 0⟩).2 = .dey ∧ 1 = 1 + operandCount m x 0x88)
theorem bitImm (v : Imm) : Statement (.bitImm v) := by
  intro m x h
  cases v with
  | byte v =>
    obtain rfl : m = true := h
    exact (⟨rfl, rfl⟩ : (opcodeMap 0x89 ⟨true, x, v, 0, 0⟩).2 = .bitImm (.byte v) ∧ 2 = 1 + operandCount true x 0x89)
  | word v =>
    obtain rfl : m = false := by simpa [Instr.wellFormed, Imm.fits] using h
    exact (⟨congrArg (fun v => Instr.bitImm (.word v)) (mkWord_hiByte_loByte v), rfl⟩ :
      (opcodeMap 0x89 ⟨false, x, loByte v, hiByte v, 0⟩).2 = .bitImm (.word v) ∧
        3 = 1 + operandCount false x 0x89)
theorem txa : Statement .txa := fun m x _ =>
  (⟨rfl, rfl⟩ : (opcodeMap 0x8A ⟨m, x, 0, 0, 0⟩).2 = .txa ∧ 1 = 1 + operandCount m x 0x8A)
theorem phb : Statement .phb := fun m x _ =>
  (⟨rfl, rfl⟩ : (opcodeMap 0x8B ⟨m, x, 0, 0, 0⟩).2 = .phb ∧ 1 = 1 + operandCount m x 0x8B)
theorem styAbs (addr : Word) : Statement (.styAbs addr) := fun m x _ =>
  (⟨congrArg Instr.styAbs (mkWord_hiByte_loByte addr), rfl⟩ : (opcodeMap 0x8C ⟨m, x, loByte addr, hiByte addr, 0⟩).2 = .styAbs addr ∧ 3 = 1 + operandCount m x 0x8C)
theorem staAbs (addr : Word) : Statement (.staAbs addr) := fun m x _ =>
  (⟨congrArg Instr.staAbs (mkWord_hiByte_loByte addr), rfl⟩ : (opcodeMap 0x8D ⟨m, x, loByte addr, hiByte addr, 0⟩).2 = .staAbs addr ∧ 3 = 1 + operandCount m x 0x8D)
theorem stxAbs (addr : Word) : Statement (.stxAbs addr) := fun m x _ =>
  (⟨congrArg Instr.stxAbs (mkWord_hiByte_loByte addr), rfl⟩ : (opcodeMap 0x8E ⟨m, x, loByte addr, hiByte addr, 0⟩).2 = .stxAbs addr ∧ 3 = 1 + operandCount m x 0x8E)
theorem staLong (addr : Addr) : Statement (.staLong addr) := fun m x _ =>
  (⟨congrArg Instr.staLong (mkLong_bytes addr), rfl⟩ : (opcodeMap 0x8F ⟨m, x, loByte addr.offset, hiByte addr.offset, addr.bank⟩).2 = .staLong addr ∧ 4 = 1 + operandCount m x 0x8F)
theorem bcc (off : Byte) : Statement (.bcc off) := fun m x _ =>
  (⟨rfl, rfl⟩ : (opcodeMap 0x90 ⟨m, x, off, 0, 0⟩).2 = .bcc off ∧ 2 = 1 + operandCount m x 0x90)
theorem staDpIndY (off : Byte) : Statement (.staDpIndY off) := fun m x _ =>
  (⟨rfl, rfl⟩ : (opcodeMap 0x91 ⟨m, x, off, 0, 0⟩).2 = .staDpIndY off ∧ 2 = 1 + operandCount m x 0x91)
theorem staDpInd (off : Byte) : Statement (.staDpInd off) := fun m x _ =>
  (⟨rfl, rfl⟩ : (opcodeMap 0x92 ⟨m, x, off, 0, 0⟩).2 = .staDpInd off ∧ 2 = 1 + operandCount m x 0x92)
theorem staSrIndY (off : Byte) : Statement (.staSrIndY off) := fun m x _ =>
  (⟨rfl, rfl⟩ : (opcodeMap 0x93 ⟨m, x, off, 0, 0⟩).2 = .staSrIndY off ∧ 2 = 1 + operandCount m x 0x93)
theorem styDpX (off : Byte) : Statement (.styDpX off) := fun m x _ =>
  (⟨rfl, rfl⟩ : (opcodeMap 0x94 ⟨m, x, off, 0, 0⟩).2 = .styDpX off ∧ 2 = 1 + operandCount m x 0x94)
theorem staDpX (off : Byte) : Statement (.staDpX off) := fun m x _ =>
  (⟨rfl, rfl⟩ : (opcodeMap 0x95 ⟨m, x, off, 0, 0⟩).2 = .staDpX off ∧ 2 = 1 + operandCount m x 0x95)
theorem stxDpY (off : Byte) : Statement (.stxDpY off) := fun m x _ =>
  (⟨rfl, rfl⟩ : (opcodeMap 0x96 ⟨m, x, off, 0, 0⟩).2 = .stxDpY off ∧ 2 = 1 + operandCount m x 0x96)
theorem staDpIndLY (off : Byte) : Statement (.staDpIndLY off) := fun m x _ =>
  (⟨rfl, rfl⟩ : (opcodeMap 0x97 ⟨m, x, off, 0, 0⟩).2 = .staDpIndLY off ∧ 2 = 1 + operandCount m x 0x97)
theorem tya : Statement .tya := fun m x _ =>
  (⟨rfl, rfl⟩ : (opcodeMap 0x98 ⟨m, x, 0, 0, 0⟩).2 = .tya ∧ 1 = 1 + operandCount m x 0x98)
theorem staAbsY (addr : Word) : Statement (.staAbsY addr) := fun m x _ =>
  (⟨congrArg Instr.staAbsY (mkWord_hiByte_loByte addr), rfl⟩ : (opcodeMap 0x99 ⟨m, x, loByte addr, hiByte addr, 0⟩).2 = .staAbsY addr ∧ 3 = 1 + operandCount m x 0x99)
theorem txs : Statement .txs := fun m x _ =>
  (⟨rfl, rfl⟩ : (opcodeMap 0x9A ⟨m, x, 0, 0, 0⟩).2 = .txs ∧ 1 = 1 + operandCount m x 0x9A)
theorem txy : Statement .txy := fun m x _ =>
  (⟨rfl, rfl⟩ : (opcodeMap 0x9B ⟨m, x, 0, 0, 0⟩).2 = .txy ∧ 1 = 1 + operandCount m x 0x9B)
theorem stzAbs (addr : Word) : Statement (.stzAbs addr) := fun m x _ =>
  (⟨congrArg Instr.stzAbs (mkWord_hiByte_loByte addr), rfl⟩ : (opcodeMap 0x9C ⟨m, x, loByte addr, hiByte addr, 0⟩).2 = .stzAbs addr ∧ 3 = 1 + operandCount m x 0x9C)
theorem staAbsX (addr : Word) : Statement (.staAbsX addr) := fun m x _ =>
  (⟨congrArg Instr.staAbsX (mkWord_hiByte_loByte addr), rfl⟩ : (opcodeMap 0x9D ⟨m, x, loByte addr, hiByte addr, 0⟩).2 = .staAbsX addr ∧ 3 = 1 + operandCount m x 0x9D)
theorem stzAbsX (addr : Word) : Statement (.stzAbsX addr) := fun m x _ =>
  (⟨congrArg Instr.stzAbsX (mkWord_hiByte_loByte addr), rfl⟩ : (opcodeMap 0x9E ⟨m, x, loByte addr, hiByte addr, 0⟩).2 = .stzAbsX addr ∧ 3 = 1 + operandCount m x 0x9E)
theorem staLongX (addr : Addr) : Statement (.staLongX addr) := fun m x _ =>
  (⟨congrArg Instr.staLongX (mkLong_bytes addr), rfl⟩ : (opcodeMap 0x9F ⟨m, x, loByte addr.offset, hiByte addr.offset, addr.bank⟩).2 = .staLongX addr ∧ 4 = 1 + operandCount m x 0x9F)
theorem ldyImm (v : Imm) : Statement (.ldyImm v) := by
  intro m x h
  cases v with
  | byte v =>
    obtain rfl : x = true := h
    exact (⟨rfl, rfl⟩ : (opcodeMap 0xA0 ⟨m, true, v, 0, 0⟩).2 = .ldyImm (.byte v) ∧ 2 = 1 + operandCount m true 0xA0)
  | word v =>
    obtain rfl : x = false := by simpa [Instr.wellFormed, Imm.fits] using h
    exact (⟨congrArg (fun v => Instr.ldyImm (.word v)) (mkWord_hiByte_loByte v), rfl⟩ :
      (opcodeMap 0xA0 ⟨m, false, loByte v, hiByte v, 0⟩).2 = .ldyImm (.word v) ∧
        3 = 1 + operandCount m false 0xA0)
theorem ldaDpIndX (off : Byte) : Statement (.ldaDpIndX off) := fun m x _ =>
  (⟨rfl, rfl⟩ : (opcodeMap 0xA1 ⟨m, x, off, 0, 0⟩).2 = .ldaDpIndX off ∧ 2 = 1 + operandCount m x 0xA1)
theorem ldxImm (v : Imm) : Statement (.ldxImm v) := by
  intro m x h
  cases v with
  | byte v =>
    obtain rfl : x = true := h
    exact (⟨rfl, rfl⟩ : (opcodeMap 0xA2 ⟨m, true, v, 0, 0⟩).2 = .ldxImm (.byte v) ∧ 2 = 1 + operandCount m true 0xA2)
  | word v =>
    obtain rfl : x = false := by simpa [Instr.wellFormed, Imm.fits] using h
    exact (⟨congrArg (fun v => Instr.ldxImm (.word v)) (mkWord_hiByte_loByte v), rfl⟩ :
      (opcodeMap 0xA2 ⟨m, false, loByte v, hiByte v, 0⟩).2 = .ldxImm (.word v) ∧
        3 = 1 + operandCount m false 0xA2)
theorem ldaSr (off : Byte) : Statement (.ldaSr off) := fun m x _ =>
  (⟨rfl, rfl⟩ : (opcodeMap 0xA3 ⟨m, x, off, 0, 0⟩).2 = .ldaSr off ∧ 2 = 1 + operandCount m x 0xA3)
theorem ldyDp (off : Byte) : Statement (.ldyDp off) := fun m x _ =>
  (⟨rfl, rfl⟩ : (opcodeMap 0xA4 ⟨m, x, off, 0, 0⟩).2 = .ldyDp off ∧ 2 = 1 + operandCount m x 0xA4)
theorem ldaDp (off : Byte) : Statement (.ldaDp off) := fun m x _ =>
  (⟨rfl, rfl⟩ : (opcodeMap 0xA5 ⟨m, x, off, 0, 0⟩).2 = .ldaDp off ∧ 2 = 1 + operandCount m x 0xA5)
theorem ldxDp (off : Byte) : Statement (.ldxDp off) := fun m x _ =>
  (⟨rfl, rfl⟩ : (opcodeMap 0xA6 ⟨m, x, off, 0, 0⟩).2 = .ldxDp off ∧ 2 = 1 + operandCount m x 0xA6)
theorem ldaDpIndL (off : Byte) : Statement (.ldaDpIndL off) := fun m x _ =>
  (⟨rfl, rfl⟩ : (opcodeMap 0xA7 ⟨m, x, off, 0, 0⟩).2 = .ldaDpIndL off ∧ 2 = 1 + operandCount m x 0xA7)
theorem tay : Statement .tay := fun m x _ =>
  (⟨rfl, rfl⟩ : (opcodeMap 0xA8 ⟨m, x, 0, 0, 0⟩).2 = .tay ∧ 1 = 1 + operandCount m x 0xA8)
theorem ldaImm (v : Imm) : Statement (.ldaImm v) := by
  intro m x h
  cases v with
  | byte v =>
    obtain rfl : m = true := h
    exact (⟨rfl, rfl⟩ : (opcodeMap 0xA9 ⟨true, x, v, 0, 0⟩).2 = .ldaImm (.byte v) ∧ 2 = 1 + operandCount true x 0xA9)
  | word v =>
    obtain rfl : m = false := by simpa [Instr.wellFormed, Imm.fits] using h
    exact (⟨congrArg (fun v => Instr.ldaImm (.word v)) (mkWord_hiByte_loByte v), rfl⟩ :
      (opcodeMap 0xA9 ⟨false, x, loByte v, hiByte v, 0⟩).2 = .ldaImm (.word v) ∧
        3 = 1 + operandCount false x 0xA9)
theorem tax : Statement .tax := fun m x _ =>
  (⟨rfl, rfl⟩ : (opcodeMap 0xAA ⟨m, x, 0, 0, 0⟩).2 = .tax ∧ 1 = 1 + operandCount m x 0xAA)
theorem plb : Statement .plb := fun m x _ =>
  (⟨rfl, rfl⟩ : (opcodeMap 0xAB ⟨m, x, 0, 0, 0⟩).2 = .plb ∧ 1 = 1 + operandCount m x 0xAB)
theorem ldyAbs (addr : Word) : Statement (.ldyAbs addr) := fun m x _ =>
  (⟨congrArg Instr.ldyAbs (mkWord_hiByte_loByte addr), rfl⟩ : (opcodeMap 0xAC ⟨m, x, loByte addr, hiByte addr, 0⟩).2 = .ldyAbs addr ∧ 3 = 1 + operandCount m x 0xAC)
theorem ldaAbs (addr : Word) : Statement (.ldaAbs addr) := fun m x _ =>
  (⟨congrArg Instr.ldaAbs (mkWord_hiByte_loByte addr), rfl⟩ : (opcodeMap 0xAD ⟨m, x, loByte addr, hiByte addr, 0⟩).2 = .ldaAbs addr ∧ 3 = 1 + operandCount m x 0xAD)
theorem ldxAbs (addr : Word) : Statement (.ldxAbs addr) := fun m x _ =>
  (⟨congrArg Instr.ldxAbs (mkWord_hiByte_loByte addr), rfl⟩ : (opcodeMap 0xAE ⟨m, x, loByte addr, hiByte addr, 0⟩).2 = .ldxAbs addr ∧ 3 = 1 + operandCount m x 0xAE)
theorem ldaLong (addr : Addr) : Statement (.ldaLong addr) := fun m x _ =>
  (⟨congrArg Instr.ldaLong (mkLong_bytes addr), rfl⟩ : (opcodeMap 0xAF ⟨m, x, loByte addr.offset, hiByte addr.offset, addr.bank⟩).2 = .ldaLong addr ∧ 4 = 1 + operandCount m x 0xAF)
theorem bcs (off : Byte) : Statement (.bcs off) := fun m x _ =>
  (⟨rfl, rfl⟩ : (opcodeMap 0xB0 ⟨m, x, off, 0, 0⟩).2 = .bcs off ∧ 2 = 1 + operandCount m x 0xB0)
theorem ldaDpIndY (off : Byte) : Statement (.ldaDpIndY off) := fun m x _ =>
  (⟨rfl, rfl⟩ : (opcodeMap 0xB1 ⟨m, x, off, 0, 0⟩).2 = .ldaDpIndY off ∧ 2 = 1 + operandCount m x 0xB1)
theorem ldaDpInd (off : Byte) : Statement (.ldaDpInd off) := fun m x _ =>
  (⟨rfl, rfl⟩ : (opcodeMap 0xB2 ⟨m, x, off, 0, 0⟩).2 = .ldaDpInd off ∧ 2 = 1 + operandCount m x 0xB2)
theorem ldaSrIndY (off : Byte) : Statement (.ldaSrIndY off) := fun m x _ =>
  (⟨rfl, rfl⟩ : (opcodeMap 0xB3 ⟨m, x, off, 0, 0⟩).2 = .ldaSrIndY off ∧ 2 = 1 + operandCount m x 0xB3)
theorem ldyDpX (off : Byte) : Statement (.ldyDpX off) := fun m x _ =>
  (⟨rfl, rfl⟩ : (opcodeMap 0xB4 ⟨m, x, off, 0, 0⟩).2 = .ldyDpX off ∧ 2 = 1 + operandCount m x 0xB4)
theorem ldaDpX (off : Byte) : Statement (.ldaDpX off) := fun m x _ =>
  (⟨rfl, rfl⟩ : (opcodeMap 0xB5 ⟨m, x, off, 0, 0⟩).2 = .ldaDpX off ∧ 2 = 1 + operandCount m x 0xB5)
theorem ldxDpY (off : Byte) : Statement (.ldxDpY off) := fun m x _ =>
  (⟨rfl, rfl⟩ : (opcodeMap 0xB6 ⟨m, x, off, 0, 0⟩).2 = .ldxDpY off ∧ 2 = 1 + operandCount m x 0xB6)
theorem ldaDpIndLY (off : Byte) : Statement (.ldaDpIndLY off) := fun m x _ =>
  (⟨rfl, rfl⟩ : (opcodeMap 0xB7 ⟨m, x, off, 0, 0⟩).2 = .ldaDpIndLY off ∧ 2 = 1 + operandCount m x 0xB7)
theorem clv : Statement .clv := fun m x _ =>
  (⟨rfl, rfl⟩ : (opcodeMap 0xB8 ⟨m, x, 0, 0, 0⟩).2 = .clv ∧ 1 = 1 + operandCount m x 0xB8)
theorem ldaAbsY (addr : Word) : Statement (.ldaAbsY addr) := fun m x _ =>
  (⟨congrArg Instr.ldaAbsY (mkWord_hiByte_loByte addr), rfl⟩ : (opcodeMap 0xB9 ⟨m, x, loByte addr, hiByte addr, 0⟩).2 = .ldaAbsY addr ∧ 3 = 1 + operandCount m x 0xB9)
theorem tsx : Statement .tsx := fun m x _ =>
  (⟨rfl, rfl⟩ : (opcodeMap 0xBA ⟨m, x, 0, 0, 0⟩).2 = .tsx ∧ 1 = 1 + operandCount m x 0xBA)
theorem tyx : Statement .tyx := fun m x _ =>
  (⟨rfl, rfl⟩ : (opcodeMap 0xBB ⟨m, x, 0, 0, 0⟩).2 = .tyx ∧ 1 = 1 + operandCount m x 0xBB)
theorem ldyAbsX (addr : Word) : Statement (.ldyAbsX addr) := fun m x _ =>
  (⟨congrArg Instr.ldyAbsX (mkWord_hiByte_loByte addr), rfl⟩ : (opcodeMap 0xBC ⟨m, x, loByte addr, hiByte addr, 0⟩).2 = .ldyAbsX addr ∧ 3 = 1 + operandCount m x 0xBC)
theorem ldaAbsX (addr : Word) : Statement (.ldaAbsX addr) := fun m x _ =>
  (⟨congrArg Instr.ldaAbsX (mkWord_hiByte_loByte addr), rfl⟩ : (opcodeMap 0xBD ⟨m, x, loByte addr, hiByte addr, 0⟩).2 = .ldaAbsX addr ∧ 3 = 1 + operandCount m x 0xBD)
theorem ldxAbsY (addr : Word) : Statement (.ldxAbsY addr) := fun m x _ =>
  (⟨congrArg Instr.ldxAbsY (mkWord_hiByte_loByte addr), rfl⟩ : (opcodeMap 0xBE ⟨m, x, loByte addr, hiByte addr, 0⟩).2 = .ldxAbsY addr ∧ 3 = 1 + operandCount m x 0xBE)
theorem ldaLongX (addr : Addr) : Statement (.ldaLongX addr) := fun m x _ =>
  (⟨congrArg Instr.ldaLongX (mkLong_bytes addr), rfl⟩ : (opcodeMap 0xBF ⟨m, x, loByte addr.offset, hiByte addr.offset, addr.bank⟩).2 = .ldaLongX addr ∧ 4 = 1 + operandCount m x 0xBF)
theorem cpyImm (v : Imm) : Statement (.cpyImm v) := by
  intro m x h
  cases v with
  | byte v =>
    obtain rfl : x = true := h
    exact (⟨rfl, rfl⟩ : (opcodeMap 0xC0 ⟨m, true, v, 0, 0⟩).2 = .cpyImm (.byte v) ∧ 2 = 1 + operandCount m true 0xC0)
  | word v =>
    obtain rfl : x = false := by simpa [Instr.wellFormed, Imm.fits] using h
    exact (⟨congrArg (fun v => Instr.cpyImm (.word v)) (mkWord_hiByte_loByte v), rfl⟩ :
      (opcodeMap 0xC0 ⟨m, false, loByte v, hiByte v, 0⟩).2 = .cpyImm (.word v) ∧
        3 = 1 + operandCount m false 0xC0)
theorem cmpDpIndX (off : Byte) : Statement (.cmpDpIndX off) := fun m x _ =>
  (⟨rfl, rfl⟩ : (opcodeMap 0xC1 ⟨m, x, off, 0, 0⟩).2 = .cmpDpIndX off ∧ 2 = 1 + operandCount m x 0xC1)
theorem rep (v : Byte) : Statement (.rep v) := fun m x _ =>
  (⟨rfl, rfl⟩ : (opcodeMap 0xC2 ⟨m, x, v, 0, 0⟩).2 = .rep v ∧ 2 = 1 + operandCount m x 0xC2)
theorem cmpSr (off : Byte) : Statement (.cmpSr off) := fun m x _ =>
  (⟨rfl, rfl⟩ : (opcodeMap 0xC3 ⟨m, x, off, 0, 0⟩).2 = .cmpSr off ∧ 2 = 1 + operandCount m x 0xC3)
theorem cpyDp (off : Byte) : Statement (.cpyDp off) := fun m x _ =>
  (⟨rfl, rfl⟩ : (opcodeMap 0xC4 ⟨m, x, off, 0, 0⟩).2 = .cpyDp off ∧ 2 = 1 + operandCount m x 0xC4)
theorem cmpDp (off : Byte) : Statement (.cmpDp off) := fun m x _ =>
  (⟨rfl, rfl⟩ : (opcodeMap 0xC5 ⟨m, x, off, 0, 0⟩).2 = .cmpDp off ∧ 2 = 1 + operandCount m x 0xC5)
theorem decDp (off : Byte) : Statement (.decDp off) := fun m x _ =>
  (⟨rfl, rfl⟩ : (opcodeMap 0xC6 ⟨m, x, off, 0, 0⟩).2 = .decDp off ∧ 2 = 1 + operandCount m x 0xC6)
theorem cmpDpIndL (off : Byte) : Statement (.cmpDpIndL off) := fun m x _ =>
  (⟨rfl, rfl⟩ : (opcodeMap 0xC7 ⟨m, x, off, 0, 0⟩).2 = .cmpDpIndL off ∧ 2 = 1 + operandCount m x 0xC7)
theorem iny : Statement .iny := fun m x _ =>
  (⟨rfl, rfl⟩ : (opcodeMap 0xC8 ⟨m, x, 0, 0, 0⟩).2 = .iny ∧ 1 = 1 + operandCount m x 0xC8)
theorem cmpImm (v : Imm) : Statement (.cmpImm v) := by
  intro m x h
  cases v with
  | byte v =>
    obtain rfl : m = true := h
    exact (⟨rfl, rfl⟩ : (opcodeMap 0xC9 ⟨true, x, v, 0, 0⟩).2 = .cmpImm (.byte v) ∧ 2 = 1 + operandCount true x 0xC9)
  | word v =>
    obtain rfl : m = false := by simpa [Instr.wellFormed, Imm.fits] using h
    exact (⟨congrArg (fun v => Instr.cmpImm (.word v)) (mkWord_hiByte_loByte v), rfl⟩ :
      (opcodeMap 0xC9 ⟨false, x, loByte v, hiByte v, 0⟩).2 = .cmpImm (.word v) ∧
        3 = 1 + operandCount false x 0xC9)
theorem dex : Statement .dex := fun m x _ =>
  (⟨rfl, rfl⟩ : (opcodeMap 0xCA ⟨m, x, 0, 0, 0⟩).2 = .dex ∧ 1 = 1 + operandCount m x 0xCA)
theorem wai : Statement .wai := fun m x _ =>
  (⟨rfl, rfl⟩ : (opcodeMap 0xCB ⟨m, x, 0, 0, 0⟩).2 = .wai ∧ 1 = 1 + operandCount m x 0xCB)
theorem cpyAbs (addr : Word) : Statement (.cpyAbs addr) := fun m x _ =>
  (⟨congrArg Instr.cpyAbs (mkWord_hiByte_loByte addr), rfl⟩ : (opcodeMap 0xCC ⟨m, x, loByte addr, hiByte addr, 0⟩).2 = .cpyAbs addr ∧ 3 = 1 + operandCount m x 0xCC)
theorem cmpAbs (addr : Word) : Statement (.cmpAbs addr) := fun m x _ =>
  (⟨congrArg Instr.cmpAbs (mkWord_hiByte_loByte addr), rfl⟩ : (opcodeMap 0xCD ⟨m, x, loByte addr, hiByte addr, 0⟩).2 = .cmpAbs addr ∧ 3 = 1 + operandCount m x 0xCD)
theorem decAbs (addr : Word) : Statement (.decAbs addr) := fun m x _ =>
  (⟨congrArg Instr.decAbs (mkWord_hiByte_loByte addr), rfl⟩ : (opcodeMap 0xCE ⟨m, x, loByte addr, hiByte addr, 0⟩).2 = .decAbs addr ∧ 3 = 1 + operandCount m x 0xCE)
theorem cmpLong (addr : Addr) : Statement (.cmpLong addr) := fun m x _ =>
  (⟨congrArg Instr.cmpLong (mkLong_bytes addr), rfl⟩ : (opcodeMap 0xCF ⟨m, x, loByte addr.offset, hiByte addr.offset, addr.bank⟩).2 = .cmpLong addr ∧ 4 = 1 + operandCount m x 0xCF)
theorem bne (off : Byte) : Statement (.bne off) := fun m x _ =>
  (⟨rfl, rfl⟩ : (opcodeMap 0xD0 ⟨m, x, off, 0, 0⟩).2 = .bne off ∧ 2 = 1 + operandCount m x 0xD0)
theorem cmpDpIndY (off : Byte) : Statement (.cmpDpIndY off) := fun m x _ =>
  (⟨rfl, rfl⟩ : (opcodeMap 0xD1 ⟨m, x, off, 0, 0⟩).2 = .cmpDpIndY off ∧ 2 = 1 + operandCount m x 0xD1)
theorem cmpDpInd (off : Byte) : Statement (.cmpDpInd off) := fun m x _ =>
  (⟨rfl, rfl⟩ : (opcodeMap 0xD2 ⟨m, x, off, 0, 0⟩).2 = .cmpDpInd off ∧ 2 = 1 + operandCount m x 0xD2)
theorem cmpSrIndY (off : Byte) : Statement (.cmpSrIndY off) := fun m x _ =>
  (⟨rfl, rfl⟩ : (opcodeMap 0xD3 ⟨m, x, off, 0, 0⟩).2 = .cmpSrIndY off ∧ 2 = 1 + operandCount m x 0xD3)
theorem pei (off : Byte) : Statement (.pei off) := fun m x _ =>
  (⟨rfl, rfl⟩ : (opcodeMap 0xD4 ⟨m, x, off, 0, 0⟩).2 = .pei off ∧ 2 = 1 + operandCount m x 0xD4)
theorem cmpDpX (off : Byte) : Statement (.cmpDpX off) := fun m x _ =>
  (⟨rfl, rfl⟩ : (opcodeMap 0xD5 ⟨m, x, off, 0, 0⟩).2 = .cmpDpX off ∧ 2 = 1 + operandCount m x 0xD5)
theorem decDpX (off : Byte) : Statement (.decDpX off) := fun m x _ =>
  (⟨rfl, rfl⟩ : (opcodeMap 0xD6 ⟨m, x, off, 0, 0⟩).2 = .decDpX off ∧ 2 = 1 + operandCount m x 0xD6)
theorem cmpDpIndLY (off : Byte) : Statement (.cmpDpIndLY off) := fun m x _ =>
  (⟨rfl, rfl⟩ : (opcodeMap 0xD7 ⟨m, x, off, 0, 0⟩).2 = .cmpDpIndLY off ∧ 2 = 1 + operandCount m x 0xD7)
theorem cld : Statement .cld := fun m x _ =>
  (⟨rfl, rfl⟩ : (opcodeMap 0xD8 ⟨m, x, 0, 0, 0⟩).2 = .cld ∧ 1 = 1 + operandCount m x 0xD8)
theorem cmpAbsY (addr : Word) : Statement (.cmpAbsY addr) := fun m x _ =>
  (⟨congrArg Instr.cmpAbsY (mkWord_hiByte_loByte addr), rfl⟩ : (opcodeMap 0xD9 ⟨m, x, loByte addr, hiByte addr, 0⟩).2 = .cmpAbsY addr ∧ 3 = 1 + operandCount m x 0xD9)
theorem phx : Statement .phx := fun m x _ =>
  (⟨rfl, rfl⟩ : (opcodeMap 0xDA ⟨m, x, 0, 0, 0⟩).2 = .phx ∧ 1 = 1 + operandCount m x 0xDA)
theorem stp : Statement .stp := fun m x _ =>
  (⟨rfl, rfl⟩ : (opcodeMap 0xDB ⟨m, x, 0, 0, 0⟩).2 = .stp ∧ 1 = 1 + operandCount m x 0xDB)
theorem jmlInd (addr : Word) : Statement (.jmlInd addr) := fun m x _ =>
  (⟨congrArg Instr.jmlInd (mkWord_hiByte_loByte addr), rfl⟩ : (opcodeMap 0xDC ⟨m, x, loByte addr, hiByte addr, 0⟩).2 = .jmlInd addr ∧ 3 = 1 + operandCount m x 0xDC)
theorem cmpAbsX (addr : Word) : Statement (.cmpAbsX addr) := fun m x _ =>
  (⟨congrArg Instr.cmpAbsX (mkWord_hiByte_loByte addr), rfl⟩ : (opcodeMap 0xDD ⟨m, x, loByte addr, hiByte addr, 0⟩).2 = .cmpAbsX addr ∧ 3 = 1 + operandCount m x 0xDD)
theorem decAbsX (addr : Word) : Statement (.decAbsX addr) := fun m x _ =>
  (⟨congrArg Instr.decAbsX (mkWord_hiByte_loByte addr), rfl⟩ : (opcodeMap 0xDE ⟨m, x, loByte addr, hiByte addr, 0⟩).2 = .decAbsX addr ∧ 3 = 1 + operandCount m x 0xDE)
theorem cmpLongX (addr : Addr) : Statement (.cmpLongX addr) := fun m x _ =>
  (⟨congrArg Instr.cmpLongX (mkLong_bytes addr), rfl⟩ : (opcodeMap 0xDF ⟨m, x, loByte addr.offset, hiByte addr.offset, addr.bank⟩).2 = .cmpLongX addr ∧ 4 = 1 + operandCount m x 0xDF)
theorem cpxImm (v : Imm) : Statement (.cpxImm v) := by
  intro m x h
  cases v with
  | byte v =>
    obtain rfl : x = true := h
    exact (⟨rfl, rfl⟩ : (opcodeMap 0xE0 ⟨m, true, v, 0, 0⟩).2 = .cpxImm (.byte v) ∧ 2 = 1 + operandCount m true 0xE0)
  | word v =>
    obtain rfl : x = false := by simpa [Instr.wellFormed, Imm.fits] using h
    exact (⟨congrArg (fun v => Instr.cpxImm (.word v)) (mkWord_hiByte_loByte v), rfl⟩ :
      (opcodeMap 0xE0 ⟨m, false, loByte v, hiByte v, 0⟩).2 = .cpxImm (.word v) ∧
        3 = 1 + operandCount m false 0xE0)
theorem sbcDpIndX (off : Byte) : Statement (.sbcDpIndX off) := fun m x _ =>
  (⟨rfl, rfl⟩ : (opcodeMap 0xE1 ⟨m, x, off, 0, 0⟩).2 = .sbcDpIndX off ∧ 2 = 1 + operandCount m x 0xE1)
theorem sep (v : Byte) : Statement (.sep v) := fun m x _ =>
  (⟨rfl, rfl⟩ : (opcodeMap 0xE2 ⟨m, x, v, 0, 0⟩).2 = .sep v ∧ 2 = 1 + operandCount m x 0xE2)
theorem sbcSr (off : Byte) : Statement (.sbcSr off) := fun m x _ =>
  (⟨rfl, rfl⟩ : (opcodeMap 0xE3 ⟨m, x, off, 0, 0⟩).2 = .sbcSr off ∧ 2 = 1 + operandCount m x 0xE3)
theorem cpxDp (off : Byte) : Statement (.cpxDp off) := fun m x _ =>
  (⟨rfl, rfl⟩ : (opcodeMap 0xE4 ⟨m, x, off, 0, 0⟩).2 = .cpxDp off ∧ 2 = 1 + operandCount m x 0xE4)
theorem sbcDp (off : Byte) : Statement (.sbcDp off) := fun m x _ =>
  (⟨rfl, rfl⟩ : (opcodeMap 0xE5 ⟨m, x, off, 0, 0⟩).2 = .sbcDp off ∧ 2 = 1 + operandCount m x 0xE5)
theorem incDp (off : Byte) : Statement (.incDp off) := fun m x _ =>
  (⟨rfl, rfl⟩ : (opcodeMap 0xE6 ⟨m, x, off, 0, 0⟩).2 = .incDp off ∧ 2 = 1 + operandCount m x 0xE6)
theorem sbcDpIndL (off : Byte) : Statement (.sbcDpIndL off) := fun m x _ =>
  (⟨rfl, rfl⟩ : (opcodeMap 0xE7 ⟨m, x, off, 0, 0⟩).2 = .sbcDpIndL off ∧ 2 = 1 + operandCount m x 0xE7)
theorem inx : Statement .inx := fun m x _ =>
  (⟨rfl, rfl⟩ : (opcodeMap 0xE8 ⟨m, x, 0, 0, 0⟩).2 = .inx ∧ 1 = 1 + operandCount m x 0xE8)
theorem sbcImm (v : Imm) : Statement (.sbcImm v) := by
  intro m x h
  cases v with
  | byte v =>
    obtain rfl : m = true := h
    exact (⟨rfl, rfl⟩ : (opcodeMap 0xE9 ⟨true, x, v, 0, 0⟩).2 = .sbcImm (.byte v) ∧ 2 = 1 + operandCount true x 0xE9)
  | word v =>
    obtain rfl : m = false := by simpa [Instr.wellFormed, Imm.fits] using h
    exact (⟨congrArg (fun v => Instr.sbcImm (.word v)) (mkWord_hiByte_loByte v), rfl⟩ :
      (opcodeMap 0xE9 ⟨false, x, loByte v, hiByte v, 0⟩).2 = .sbcImm (.word v) ∧
        3 = 1 + operandCount false x 0xE9)
theorem nop : Statement .nop := fun m x _ =>
  (⟨rfl, rfl⟩ : (opcodeMap 0xEA ⟨m, x, 0, 0, 0⟩).2 = .nop ∧ 1 = 1 + operandCount m x 0xEA)
theorem xba : Statement .xba := fun m x _ =>
  (⟨rfl, rfl⟩ : (opcodeMap 0xEB ⟨m, x, 0, 0, 0⟩).2 = .xba ∧ 1 = 1 + operandCount m x 0xEB)
theorem cpxAbs (addr : Word) : Statement (.cpxAbs addr) := fun m x _ =>
  (⟨congrArg Instr.cpxAbs (mkWord_hiByte_loByte addr), rfl⟩ : (opcodeMap 0xEC ⟨m, x, loByte addr, hiByte addr, 0⟩).2 = .cpxAbs addr ∧ 3 = 1 + operandCount m x 0xEC)
theorem sbcAbs (addr : Word) : Statement (.sbcAbs addr) := fun m x _ =>
  (⟨congrArg Instr.sbcAbs (mkWord_hiByte_loByte addr), rfl⟩ : (opcodeMap 0xED ⟨m, x, loByte addr, hiByte addr, 0⟩).2 = .sbcAbs addr ∧ 3 = 1 + operandCount m x 0xED)
theorem incAbs (addr : Word) : Statement (.incAbs addr) := fun m x _ =>
  (⟨congrArg Instr.incAbs (mkWord_hiByte_loByte addr), rfl⟩ : (opcodeMap 0xEE ⟨m, x, loByte addr, hiByte addr, 0⟩).2 = .incAbs addr ∧ 3 = 1 + operandCount m x 0xEE)
theorem sbcLong (addr : Addr) : Statement (.sbcLong addr) := fun m x _ =>
  (⟨congrArg Instr.sbcLong (mkLong_bytes addr), rfl⟩ : (opcodeMap 0xEF ⟨m, x, loByte addr.offset, hiByte addr.offset, addr.bank⟩).2 = .sbcLong addr ∧ 4 = 1 + operandCount m x 0xEF)
theorem beq (off : Byte) : Statement (.beq off) := fun m x _ =>
  (⟨rfl, rfl⟩ : (opcodeMap 0xF0 ⟨m, x, off, 0, 0⟩).2 = .beq off ∧ 2 = 1 + operandCount m x 0xF0)
theorem sbcDpIndY (off : Byte) : Statement (.sbcDpIndY off) := fun m x _ =>
  (⟨rfl, rfl⟩ : (opcodeMap 0xF1 ⟨m, x, off, 0, 0⟩).2 = .sbcDpIndY off ∧ 2 = 1 + operandCount m x 0xF1)
theorem sbcDpInd (off : Byte) : Statement (.sbcDpInd off) := fun m x _ =>
  (⟨rfl, rfl⟩ : (opcodeMap 0xF2 ⟨m, x, off, 0, 0⟩).2 = .sbcDpInd off ∧ 2 = 1 + operandCount m x 0xF2)
theorem sbcSrIndY (off : Byte) : Statement (.sbcSrIndY off) := fun m x _ =>
  (⟨rfl, rfl⟩ : (opcodeMap 0xF3 ⟨m, x, off, 0, 0⟩).2 = .sbcSrIndY off ∧ 2 = 1 + operandCount m x 0xF3)
theorem pea (v : Word) : Statement (.pea v) := fun m x _ =>
  (⟨congrArg Instr.pea (mkWord_hiByte_loByte v), rfl⟩ : (opcodeMap 0xF4 ⟨m, x, loByte v, hiByte v, 0⟩).2 = .pea v ∧ 3 = 1 + operandCount m x 0xF4)
theorem sbcDpX (off : Byte) : Statement (.sbcDpX off) := fun m x _ =>
  (⟨rfl, rfl⟩ : (opcodeMap 0xF5 ⟨m, x, off, 0, 0⟩).2 = .sbcDpX off ∧ 2 = 1 + operandCount m x 0xF5)
theorem incDpX (off : Byte) : Statement (.incDpX off) := fun m x _ =>
  (⟨rfl, rfl⟩ : (opcodeMap 0xF6 ⟨m, x, off, 0, 0⟩).2 = .incDpX off ∧ 2 = 1 + operandCount m x 0xF6)
theorem sbcDpIndLY (off : Byte) : Statement (.sbcDpIndLY off) := fun m x _ =>
  (⟨rfl, rfl⟩ : (opcodeMap 0xF7 ⟨m, x, off, 0, 0⟩).2 = .sbcDpIndLY off ∧ 2 = 1 + operandCount m x 0xF7)
theorem sed : Statement .sed := fun m x _ =>
  (⟨rfl, rfl⟩ : (opcodeMap 0xF8 ⟨m, x, 0, 0, 0⟩).2 = .sed ∧ 1 = 1 + operandCount m x 0xF8)
theorem sbcAbsY (addr : Word) : Statement (.sbcAbsY addr) := fun m x _ =>
  (⟨congrArg Instr.sbcAbsY (mkWord_hiByte_loByte addr), rfl⟩ : (opcodeMap 0xF9 ⟨m, x, loByte addr, hiByte addr, 0⟩).2 = .sbcAbsY addr ∧ 3 = 1 + operandCount m x 0xF9)
theorem plx : Statement .plx := fun m x _ =>
  (⟨rfl, rfl⟩ : (opcodeMap 0xFA ⟨m, x, 0, 0, 0⟩).2 = .plx ∧ 1 = 1 + operandCount m x 0xFA)
theorem xce : Statement .xce := fun m x _ =>
  (⟨rfl, rfl⟩ : (opcodeMap 0xFB ⟨m, x, 0, 0, 0⟩).2 = .xce ∧ 1 = 1 + operandCount m x 0xFB)
theorem jsrIndX (addr : Word) : Statement (.jsrIndX addr) := fun m x _ =>
  (⟨congrArg Instr.jsrIndX (mkWord_hiByte_loByte addr), rfl⟩ : (opcodeMap 0xFC ⟨m, x, loByte addr, hiByte addr, 0⟩).2 = .jsrIndX addr ∧ 3 = 1 + operandCount m x 0xFC)
theorem sbcAbsX (addr : Word) : Statement (.sbcAbsX addr) := fun m x _ =>
  (⟨congrArg Instr.sbcAbsX (mkWord_hiByte_loByte addr), rfl⟩ : (opcodeMap 0xFD ⟨m, x, loByte addr, hiByte addr, 0⟩).2 = .sbcAbsX addr ∧ 3 = 1 + operandCount m x 0xFD)
theorem incAbsX (addr : Word) : Statement (.incAbsX addr) := fun m x _ =>
  (⟨congrArg Instr.incAbsX (mkWord_hiByte_loByte addr), rfl⟩ : (opcodeMap 0xFE ⟨m, x, loByte addr, hiByte addr, 0⟩).2 = .incAbsX addr ∧ 3 = 1 + operandCount m x 0xFE)
theorem sbcLongX (addr : Addr) : Statement (.sbcLongX addr) := fun m x _ =>
  (⟨congrArg Instr.sbcLongX (mkLong_bytes addr), rfl⟩ : (opcodeMap 0xFF ⟨m, x, loByte addr.offset, hiByte addr.offset, addr.bank⟩).2 = .sbcLongX addr ∧ 4 = 1 + operandCount m x 0xFF)

end Sys2Proof.Laws.Fields
end

