-- ==== Sys2Proof/Laws/Decode.lean ====
section
/-! SUPPORT. The laws of the decoder: an instruction is its opcode's row fed its operand bytes, so one opcode names one
form. -/

namespace Sys2Proof

/-- Every instruction has the law of Laws/PerInstr.lean. -/
theorem Laws.Fields.all (i : Instr) : Laws.Fields.Statement i :=
  match i with
  | .brk sig => Laws.Fields.brk sig
  | .oraDpIndX off => Laws.Fields.oraDpIndX off
  | .cop sig => Laws.Fields.cop sig
  | .oraSr off => Laws.Fields.oraSr off
  | .tsbDp off => Laws.Fields.tsbDp off
  | .oraDp off => Laws.Fields.oraDp off
  | .aslDp off => Laws.Fields.aslDp off
  | .oraDpIndL off => Laws.Fields.oraDpIndL off
  | .php => Laws.Fields.php
  | .oraImm v => Laws.Fields.oraImm v
  | .aslAcc => Laws.Fields.aslAcc
  | .phd => Laws.Fields.phd
  | .tsbAbs addr => Laws.Fields.tsbAbs addr
  | .oraAbs addr => Laws.Fields.oraAbs addr
  | .aslAbs addr => Laws.Fields.aslAbs addr
  | .oraLong addr => Laws.Fields.oraLong addr
  | .bpl off => Laws.Fields.bpl off
  | .oraDpIndY off => Laws.Fields.oraDpIndY off
  | .oraDpInd off => Laws.Fields.oraDpInd off
  | .oraSrIndY off => Laws.Fields.oraSrIndY off
  | .trbDp off => Laws.Fields.trbDp off
  | .oraDpX off => Laws.Fields.oraDpX off
  | .aslDpX off => Laws.Fields.aslDpX off
  | .oraDpIndLY off => Laws.Fields.oraDpIndLY off
  | .clc => Laws.Fields.clc
  | .oraAbsY addr => Laws.Fields.oraAbsY addr
  | .incAcc => Laws.Fields.incAcc
  | .tcs => Laws.Fields.tcs
  | .trbAbs addr => Laws.Fields.trbAbs addr
  | .oraAbsX addr => Laws.Fields.oraAbsX addr
  | .aslAbsX addr => Laws.Fields.aslAbsX addr
  | .oraLongX addr => Laws.Fields.oraLongX addr
  | .jsrAbs addr => Laws.Fields.jsrAbs addr
  | .andDpIndX off => Laws.Fields.andDpIndX off
  | .jsl addr => Laws.Fields.jsl addr
  | .andSr off => Laws.Fields.andSr off
  | .bitDp off => Laws.Fields.bitDp off
  | .andDp off => Laws.Fields.andDp off
  | .rolDp off => Laws.Fields.rolDp off
  | .andDpIndL off => Laws.Fields.andDpIndL off
  | .plp => Laws.Fields.plp
  | .andImm v => Laws.Fields.andImm v
  | .rolAcc => Laws.Fields.rolAcc
  | .pld => Laws.Fields.pld
  | .bitAbs addr => Laws.Fields.bitAbs addr
  | .andAbs addr => Laws.Fields.andAbs addr
  | .rolAbs addr => Laws.Fields.rolAbs addr
  | .andLong addr => Laws.Fields.andLong addr
  | .bmi off => Laws.Fields.bmi off
  | .andDpIndY off => Laws.Fields.andDpIndY off
  | .andDpInd off => Laws.Fields.andDpInd off
  | .andSrIndY off => Laws.Fields.andSrIndY off
  | .bitDpX off => Laws.Fields.bitDpX off
  | .andDpX off => Laws.Fields.andDpX off
  | .rolDpX off => Laws.Fields.rolDpX off
  | .andDpIndLY off => Laws.Fields.andDpIndLY off
  | .sec => Laws.Fields.sec
  | .andAbsY addr => Laws.Fields.andAbsY addr
  | .decAcc => Laws.Fields.decAcc
  | .tsc => Laws.Fields.tsc
  | .bitAbsX addr => Laws.Fields.bitAbsX addr
  | .andAbsX addr => Laws.Fields.andAbsX addr
  | .rolAbsX addr => Laws.Fields.rolAbsX addr
  | .andLongX addr => Laws.Fields.andLongX addr
  | .rti => Laws.Fields.rti
  | .eorDpIndX off => Laws.Fields.eorDpIndX off
  | .wdm sig => Laws.Fields.wdm sig
  | .eorSr off => Laws.Fields.eorSr off
  | .mvp dst src => Laws.Fields.mvp dst src
  | .eorDp off => Laws.Fields.eorDp off
  | .lsrDp off => Laws.Fields.lsrDp off
  | .eorDpIndL off => Laws.Fields.eorDpIndL off
  | .pha => Laws.Fields.pha
  | .eorImm v => Laws.Fields.eorImm v
  | .lsrAcc => Laws.Fields.lsrAcc
  | .phk => Laws.Fields.phk
  | .jmpAbs addr => Laws.Fields.jmpAbs addr
  | .eorAbs addr => Laws.Fields.eorAbs addr
  | .lsrAbs addr => Laws.Fields.lsrAbs addr
  | .eorLong addr => Laws.Fields.eorLong addr
  | .bvc off => Laws.Fields.bvc off
  | .eorDpIndY off => Laws.Fields.eorDpIndY off
  | .eorDpInd off => Laws.Fields.eorDpInd off
  | .eorSrIndY off => Laws.Fields.eorSrIndY off
  | .mvn dst src => Laws.Fields.mvn dst src
  | .eorDpX off => Laws.Fields.eorDpX off
  | .lsrDpX off => Laws.Fields.lsrDpX off
  | .eorDpIndLY off => Laws.Fields.eorDpIndLY off
  | .cli => Laws.Fields.cli
  | .eorAbsY addr => Laws.Fields.eorAbsY addr
  | .phy => Laws.Fields.phy
  | .tcd => Laws.Fields.tcd
  | .jmlLong addr => Laws.Fields.jmlLong addr
  | .eorAbsX addr => Laws.Fields.eorAbsX addr
  | .lsrAbsX addr => Laws.Fields.lsrAbsX addr
  | .eorLongX addr => Laws.Fields.eorLongX addr
  | .rts => Laws.Fields.rts
  | .adcDpIndX off => Laws.Fields.adcDpIndX off
  | .per off => Laws.Fields.per off
  | .adcSr off => Laws.Fields.adcSr off
  | .stzDp off => Laws.Fields.stzDp off
  | .adcDp off => Laws.Fields.adcDp off
  | .rorDp off => Laws.Fields.rorDp off
  | .adcDpIndL off => Laws.Fields.adcDpIndL off
  | .pla => Laws.Fields.pla
  | .adcImm v => Laws.Fields.adcImm v
  | .rorAcc => Laws.Fields.rorAcc
  | .rtl => Laws.Fields.rtl
  | .jmpInd addr => Laws.Fields.jmpInd addr
  | .adcAbs addr => Laws.Fields.adcAbs addr
  | .rorAbs addr => Laws.Fields.rorAbs addr
  | .adcLong addr => Laws.Fields.adcLong addr
  | .bvs off => Laws.Fields.bvs off
  | .adcDpIndY off => Laws.Fields.adcDpIndY off
  | .adcDpInd off => Laws.Fields.adcDpInd off
  | .adcSrIndY off => Laws.Fields.adcSrIndY off
  | .stzDpX off => Laws.Fields.stzDpX off
  | .adcDpX off => Laws.Fields.adcDpX off
  | .rorDpX off => Laws.Fields.rorDpX off
  | .adcDpIndLY off => Laws.Fields.adcDpIndLY off
  | .sei => Laws.Fields.sei
  | .adcAbsY addr => Laws.Fields.adcAbsY addr
  | .ply => Laws.Fields.ply
  | .tdc => Laws.Fields.tdc
  | .jmpIndX addr => Laws.Fields.jmpIndX addr
  | .adcAbsX addr => Laws.Fields.adcAbsX addr
  | .rorAbsX addr => Laws.Fields.rorAbsX addr
  | .adcLongX addr => Laws.Fields.adcLongX addr
  | .bra off => Laws.Fields.bra off
  | .staDpIndX off => Laws.Fields.staDpIndX off
  | .brl off => Laws.Fields.brl off
  | .staSr off => Laws.Fields.staSr off
  | .styDp off => Laws.Fields.styDp off
  | .staDp off => Laws.Fields.staDp off
  | .stxDp off => Laws.Fields.stxDp off
  | .staDpIndL off => Laws.Fields.staDpIndL off
  | .dey => Laws.Fields.dey
  | .bitImm v => Laws.Fields.bitImm v
  | .txa => Laws.Fields.txa
  | .phb => Laws.Fields.phb
  | .styAbs addr => Laws.Fields.styAbs addr
  | .staAbs addr => Laws.Fields.staAbs addr
  | .stxAbs addr => Laws.Fields.stxAbs addr
  | .staLong addr => Laws.Fields.staLong addr
  | .bcc off => Laws.Fields.bcc off
  | .staDpIndY off => Laws.Fields.staDpIndY off
  | .staDpInd off => Laws.Fields.staDpInd off
  | .staSrIndY off => Laws.Fields.staSrIndY off
  | .styDpX off => Laws.Fields.styDpX off
  | .staDpX off => Laws.Fields.staDpX off
  | .stxDpY off => Laws.Fields.stxDpY off
  | .staDpIndLY off => Laws.Fields.staDpIndLY off
  | .tya => Laws.Fields.tya
  | .staAbsY addr => Laws.Fields.staAbsY addr
  | .txs => Laws.Fields.txs
  | .txy => Laws.Fields.txy
  | .stzAbs addr => Laws.Fields.stzAbs addr
  | .staAbsX addr => Laws.Fields.staAbsX addr
  | .stzAbsX addr => Laws.Fields.stzAbsX addr
  | .staLongX addr => Laws.Fields.staLongX addr
  | .ldyImm v => Laws.Fields.ldyImm v
  | .ldaDpIndX off => Laws.Fields.ldaDpIndX off
  | .ldxImm v => Laws.Fields.ldxImm v
  | .ldaSr off => Laws.Fields.ldaSr off
  | .ldyDp off => Laws.Fields.ldyDp off
  | .ldaDp off => Laws.Fields.ldaDp off
  | .ldxDp off => Laws.Fields.ldxDp off
  | .ldaDpIndL off => Laws.Fields.ldaDpIndL off
  | .tay => Laws.Fields.tay
  | .ldaImm v => Laws.Fields.ldaImm v
  | .tax => Laws.Fields.tax
  | .plb => Laws.Fields.plb
  | .ldyAbs addr => Laws.Fields.ldyAbs addr
  | .ldaAbs addr => Laws.Fields.ldaAbs addr
  | .ldxAbs addr => Laws.Fields.ldxAbs addr
  | .ldaLong addr => Laws.Fields.ldaLong addr
  | .bcs off => Laws.Fields.bcs off
  | .ldaDpIndY off => Laws.Fields.ldaDpIndY off
  | .ldaDpInd off => Laws.Fields.ldaDpInd off
  | .ldaSrIndY off => Laws.Fields.ldaSrIndY off
  | .ldyDpX off => Laws.Fields.ldyDpX off
  | .ldaDpX off => Laws.Fields.ldaDpX off
  | .ldxDpY off => Laws.Fields.ldxDpY off
  | .ldaDpIndLY off => Laws.Fields.ldaDpIndLY off
  | .clv => Laws.Fields.clv
  | .ldaAbsY addr => Laws.Fields.ldaAbsY addr
  | .tsx => Laws.Fields.tsx
  | .tyx => Laws.Fields.tyx
  | .ldyAbsX addr => Laws.Fields.ldyAbsX addr
  | .ldaAbsX addr => Laws.Fields.ldaAbsX addr
  | .ldxAbsY addr => Laws.Fields.ldxAbsY addr
  | .ldaLongX addr => Laws.Fields.ldaLongX addr
  | .cpyImm v => Laws.Fields.cpyImm v
  | .cmpDpIndX off => Laws.Fields.cmpDpIndX off
  | .rep v => Laws.Fields.rep v
  | .cmpSr off => Laws.Fields.cmpSr off
  | .cpyDp off => Laws.Fields.cpyDp off
  | .cmpDp off => Laws.Fields.cmpDp off
  | .decDp off => Laws.Fields.decDp off
  | .cmpDpIndL off => Laws.Fields.cmpDpIndL off
  | .iny => Laws.Fields.iny
  | .cmpImm v => Laws.Fields.cmpImm v
  | .dex => Laws.Fields.dex
  | .wai => Laws.Fields.wai
  | .cpyAbs addr => Laws.Fields.cpyAbs addr
  | .cmpAbs addr => Laws.Fields.cmpAbs addr
  | .decAbs addr => Laws.Fields.decAbs addr
  | .cmpLong addr => Laws.Fields.cmpLong addr
  | .bne off => Laws.Fields.bne off
  | .cmpDpIndY off => Laws.Fields.cmpDpIndY off
  | .cmpDpInd off => Laws.Fields.cmpDpInd off
  | .cmpSrIndY off => Laws.Fields.cmpSrIndY off
  | .pei off => Laws.Fields.pei off
  | .cmpDpX off => Laws.Fields.cmpDpX off
  | .decDpX off => Laws.Fields.decDpX off
  | .cmpDpIndLY off => Laws.Fields.cmpDpIndLY off
  | .cld => Laws.Fields.cld
  | .cmpAbsY addr => Laws.Fields.cmpAbsY addr
  | .phx => Laws.Fields.phx
  | .stp => Laws.Fields.stp
  | .jmlInd addr => Laws.Fields.jmlInd addr
  | .cmpAbsX addr => Laws.Fields.cmpAbsX addr
  | .decAbsX addr => Laws.Fields.decAbsX addr
  | .cmpLongX addr => Laws.Fields.cmpLongX addr
  | .cpxImm v => Laws.Fields.cpxImm v
  | .sbcDpIndX off => Laws.Fields.sbcDpIndX off
  | .sep v => Laws.Fields.sep v
  | .sbcSr off => Laws.Fields.sbcSr off
  | .cpxDp off => Laws.Fields.cpxDp off
  | .sbcDp off => Laws.Fields.sbcDp off
  | .incDp off => Laws.Fields.incDp off
  | .sbcDpIndL off => Laws.Fields.sbcDpIndL off
  | .inx => Laws.Fields.inx
  | .sbcImm v => Laws.Fields.sbcImm v
  | .nop => Laws.Fields.nop
  | .xba => Laws.Fields.xba
  | .cpxAbs addr => Laws.Fields.cpxAbs addr
  | .sbcAbs addr => Laws.Fields.sbcAbs addr
  | .incAbs addr => Laws.Fields.incAbs addr
  | .sbcLong addr => Laws.Fields.sbcLong addr
  | .beq off => Laws.Fields.beq off
  | .sbcDpIndY off => Laws.Fields.sbcDpIndY off
  | .sbcDpInd off => Laws.Fields.sbcDpInd off
  | .sbcSrIndY off => Laws.Fields.sbcSrIndY off
  | .pea v => Laws.Fields.pea v
  | .sbcDpX off => Laws.Fields.sbcDpX off
  | .incDpX off => Laws.Fields.incDpX off
  | .sbcDpIndLY off => Laws.Fields.sbcDpIndLY off
  | .sed => Laws.Fields.sed
  | .sbcAbsY addr => Laws.Fields.sbcAbsY addr
  | .plx => Laws.Fields.plx
  | .xce => Laws.Fields.xce
  | .jsrIndX addr => Laws.Fields.jsrIndX addr
  | .sbcAbsX addr => Laws.Fields.sbcAbsX addr
  | .incAbsX addr => Laws.Fields.incAbsX addr
  | .sbcLongX addr => Laws.Fields.sbcLongX addr

/-- An immediate fits one of the two widths. -/
theorem Imm.fits_or (v : Imm) : v.fits true = true ∨ v.fits false = true := by
  cases v
  · exact .inl rfl
  · exact .inr rfl

/-- Every instruction is well formed under some width flags. -/
theorem Instr.wellFormed_some (i : Instr) : ∃ m x, i.wellFormed m x = true := by
  cases i with
  | oraImm v => exact v.fits_or.elim (fun h => ⟨true, true, h⟩) fun h => ⟨false, true, h⟩
  | andImm v => exact v.fits_or.elim (fun h => ⟨true, true, h⟩) fun h => ⟨false, true, h⟩
  | eorImm v => exact v.fits_or.elim (fun h => ⟨true, true, h⟩) fun h => ⟨false, true, h⟩
  | adcImm v => exact v.fits_or.elim (fun h => ⟨true, true, h⟩) fun h => ⟨false, true, h⟩
  | bitImm v => exact v.fits_or.elim (fun h => ⟨true, true, h⟩) fun h => ⟨false, true, h⟩
  | ldyImm v => exact v.fits_or.elim (fun h => ⟨true, true, h⟩) fun h => ⟨true, false, h⟩
  | ldxImm v => exact v.fits_or.elim (fun h => ⟨true, true, h⟩) fun h => ⟨true, false, h⟩
  | ldaImm v => exact v.fits_or.elim (fun h => ⟨true, true, h⟩) fun h => ⟨false, true, h⟩
  | cpyImm v => exact v.fits_or.elim (fun h => ⟨true, true, h⟩) fun h => ⟨true, false, h⟩
  | cmpImm v => exact v.fits_or.elim (fun h => ⟨true, true, h⟩) fun h => ⟨false, true, h⟩
  | cpxImm v => exact v.fits_or.elim (fun h => ⟨true, true, h⟩) fun h => ⟨true, false, h⟩
  | sbcImm v => exact v.fits_or.elim (fun h => ⟨true, true, h⟩) fun h => ⟨false, true, h⟩
  | _ => exact ⟨true, true, rfl⟩

/-- An instruction is what the row of its opcode makes of some operand bytes. -/
theorem Instr.of_opcode (i : Instr) : ∃ o, i = (opcodeMap i.opcode o).2 := by
  obtain ⟨m, x, h⟩ := i.wellFormed_some
  exact ⟨_, (Laws.Fields.all i m x h).1.symm⟩

/-- The bytes of an instruction begin with its opcode. -/
theorem encode_eq_cons (i : Instr) : encode i = i.opcode :: (encode i).tail := by
  obtain ⟨m, x, h⟩ := i.wellFormed_some
  have hl := (Laws.Fields.all i m x h).2
  cases he : encode i with
  | nil => rw [he] at hl; simp at hl; omega
  | cons b bs => simp [Instr.opcode, he]

/-- No instruction takes more than three operand bytes (30_encoding.md R100). -/
theorem operandCount_le (m x : Bool) (op : Byte) : operandCount m x op ≤ 3 := by
  unfold operandCount
  generalize (opcodeMap op ⟨m, x, 0, 0, 0⟩).1 = f
  cases f <;> cases m <;> cases x <;> decide

/-- Each row of the opcode map holds an instruction of its own opcode. -/
theorem opcode_opcodeMap (op : Byte) (o : OperandBytes) : (opcodeMap op o).2.opcode = op := by
  obtain ⟨n, hn, rfl⟩ : ∃ n, n < 256 ∧ op = BitVec.ofNat 8 n := ⟨op.toNat, op.isLt, by simp⟩
  interval_cases n <;> rfl

/-- The operand bytes of an instruction assemble to it. -/
theorem assemble_encode {m x : Bool} {i : Instr} (h : i.wellFormed m x = true) :
    assemble m x i.opcode (encode i).tail = i ∧ (encode i).tail.length = operandCount m x i.opcode := by
  obtain ⟨h1, h2⟩ := Laws.Fields.all i m x h
  have he := encode_eq_cons i
  refine ⟨?_, by simp; omega⟩
  rw [he] at h1
  simpa [assemble, List.getD_cons_succ] using h1

end Sys2Proof
end

