-- ==== Sys2Proof/Laws/Dispatch.lean ====
section
/-! SUPPORT. Which shared operation an instruction with a data operand runs, by its opcode, with its row's cycles; and that
no instruction stops. -/

namespace Sys2Proof.Machine

/-- The shared operation runs with the base cycles and modifiers of the instruction's row. -/
def Runs (i : Instr) (f : Nat → List Modifier → State → State) : Prop :=
  ∀ s, exec i s = .next (f (opcodeCycles i.opcode).1 (opcodeCycles i.opcode).2 s)

theorem runs_lda {i : Instr} {o : Operand} (h : i.opcode ∈ ldaOpcodes) (ho : dataOperand i = some o) :
    Runs i (loadA o) := by
  obtain ⟨q, hi⟩ := i.of_opcode
  simp only [ldaOpcodes, List.mem_cons, List.not_mem_nil, or_false] at h
  rcases h with h | h | h | h | h | h | h | h | h | h | h | h | h | h | h
  all_goals
    rw [Runs, h]
    rw [h] at hi
    subst hi
    obtain rfl : _ = o := Option.some.inj ho
    exact fun _ => rfl

theorem runs_ldx {i : Instr} {o : Operand} (h : i.opcode ∈ ldxOpcodes) (ho : dataOperand i = some o) :
    Runs i (loadX o) := by
  obtain ⟨q, hi⟩ := i.of_opcode
  simp only [ldxOpcodes, List.mem_cons, List.not_mem_nil, or_false] at h
  rcases h with h | h | h | h | h
  all_goals
    rw [Runs, h]
    rw [h] at hi
    subst hi
    obtain rfl : _ = o := Option.some.inj ho
    exact fun _ => rfl

theorem runs_ldy {i : Instr} {o : Operand} (h : i.opcode ∈ ldyOpcodes) (ho : dataOperand i = some o) :
    Runs i (loadY o) := by
  obtain ⟨q, hi⟩ := i.of_opcode
  simp only [ldyOpcodes, List.mem_cons, List.not_mem_nil, or_false] at h
  rcases h with h | h | h | h | h
  all_goals
    rw [Runs, h]
    rw [h] at hi
    subst hi
    obtain rfl : _ = o := Option.some.inj ho
    exact fun _ => rfl

theorem runs_adc {i : Instr} {o : Operand} (h : i.opcode ∈ adcOpcodes) (ho : dataOperand i = some o) :
    Runs i (binaryA addWithCarry o) := by
  obtain ⟨q, hi⟩ := i.of_opcode
  simp only [adcOpcodes, List.mem_cons, List.not_mem_nil, or_false] at h
  rcases h with h | h | h | h | h | h | h | h | h | h | h | h | h | h | h
  all_goals
    rw [Runs, h]
    rw [h] at hi
    subst hi
    obtain rfl : _ = o := Option.some.inj ho
    exact fun _ => rfl

theorem runs_sbc {i : Instr} {o : Operand} (h : i.opcode ∈ sbcOpcodes) (ho : dataOperand i = some o) :
    Runs i (binaryA subWithBorrow o) := by
  obtain ⟨q, hi⟩ := i.of_opcode
  simp only [sbcOpcodes, List.mem_cons, List.not_mem_nil, or_false] at h
  rcases h with h | h | h | h | h | h | h | h | h | h | h | h | h | h | h
  all_goals
    rw [Runs, h]
    rw [h] at hi
    subst hi
    obtain rfl : _ = o := Option.some.inj ho
    exact fun _ => rfl

theorem runs_and {i : Instr} {o : Operand} (h : i.opcode ∈ andOpcodes) (ho : dataOperand i = some o) :
    Runs i (binaryA bitAnd o) := by
  obtain ⟨q, hi⟩ := i.of_opcode
  simp only [andOpcodes, List.mem_cons, List.not_mem_nil, or_false] at h
  rcases h with h | h | h | h | h | h | h | h | h | h | h | h | h | h | h
  all_goals
    rw [Runs, h]
    rw [h] at hi
    subst hi
    obtain rfl : _ = o := Option.some.inj ho
    exact fun _ => rfl

theorem runs_ora {i : Instr} {o : Operand} (h : i.opcode ∈ oraOpcodes) (ho : dataOperand i = some o) :
    Runs i (binaryA bitOr o) := by
  obtain ⟨q, hi⟩ := i.of_opcode
  simp only [oraOpcodes, List.mem_cons, List.not_mem_nil, or_false] at h
  rcases h with h | h | h | h | h | h | h | h | h | h | h | h | h | h | h
  all_goals
    rw [Runs, h]
    rw [h] at hi
    subst hi
    obtain rfl : _ = o := Option.some.inj ho
    exact fun _ => rfl

theorem runs_eor {i : Instr} {o : Operand} (h : i.opcode ∈ eorOpcodes) (ho : dataOperand i = some o) :
    Runs i (binaryA bitXor o) := by
  obtain ⟨q, hi⟩ := i.of_opcode
  simp only [eorOpcodes, List.mem_cons, List.not_mem_nil, or_false] at h
  rcases h with h | h | h | h | h | h | h | h | h | h | h | h | h | h | h
  all_goals
    rw [Runs, h]
    rw [h] at hi
    subst hi
    obtain rfl : _ = o := Option.some.inj ho
    exact fun _ => rfl

theorem runs_cmp {i : Instr} {o : Operand} (h : i.opcode ∈ cmpOpcodes) (ho : dataOperand i = some o) :
    Runs i (compareA o) := by
  obtain ⟨q, hi⟩ := i.of_opcode
  simp only [cmpOpcodes, List.mem_cons, List.not_mem_nil, or_false] at h
  rcases h with h | h | h | h | h | h | h | h | h | h | h | h | h | h | h
  all_goals
    rw [Runs, h]
    rw [h] at hi
    subst hi
    obtain rfl : _ = o := Option.some.inj ho
    exact fun _ => rfl

theorem runs_cpx {i : Instr} {o : Operand} (h : i.opcode ∈ cpxOpcodes) (ho : dataOperand i = some o) :
    Runs i (compareX o) := by
  obtain ⟨q, hi⟩ := i.of_opcode
  simp only [cpxOpcodes, List.mem_cons, List.not_mem_nil, or_false] at h
  rcases h with h | h | h
  all_goals
    rw [Runs, h]
    rw [h] at hi
    subst hi
    obtain rfl : _ = o := Option.some.inj ho
    exact fun _ => rfl

theorem runs_cpy {i : Instr} {o : Operand} (h : i.opcode ∈ cpyOpcodes) (ho : dataOperand i = some o) :
    Runs i (compareY o) := by
  obtain ⟨q, hi⟩ := i.of_opcode
  simp only [cpyOpcodes, List.mem_cons, List.not_mem_nil, or_false] at h
  rcases h with h | h | h
  all_goals
    rw [Runs, h]
    rw [h] at hi
    subst hi
    obtain rfl : _ = o := Option.some.inj ho
    exact fun _ => rfl

theorem runs_bit {i : Instr} {o : Operand} (h : i.opcode ∈ bitOpcodes) (ho : dataOperand i = some o) :
    Runs i (testA o) := by
  obtain ⟨q, hi⟩ := i.of_opcode
  simp only [bitOpcodes, List.mem_cons, List.not_mem_nil, or_false] at h
  rcases h with h | h | h | h | h
  all_goals
    rw [Runs, h]
    rw [h] at hi
    subst hi
    obtain rfl : _ = o := Option.some.inj ho
    exact fun _ => rfl

theorem runs_sta {i : Instr} {mode : AddrMode} (h : i.opcode ∈ staOpcodes) (ho : dataOperand i = some (.mem mode)) :
    Runs i (storeA mode) := by
  obtain ⟨q, hi⟩ := i.of_opcode
  simp only [staOpcodes, List.mem_cons, List.not_mem_nil, or_false] at h
  rcases h with h | h | h | h | h | h | h | h | h | h | h | h | h | h
  all_goals
    rw [Runs, h]
    rw [h] at hi
    subst hi
    obtain rfl : _ = mode := Operand.mem.inj (Option.some.inj ho)
    exact fun _ => rfl

theorem runs_stx {i : Instr} {mode : AddrMode} (h : i.opcode ∈ stxOpcodes) (ho : dataOperand i = some (.mem mode)) :
    Runs i (storeX mode) := by
  obtain ⟨q, hi⟩ := i.of_opcode
  simp only [stxOpcodes, List.mem_cons, List.not_mem_nil, or_false] at h
  rcases h with h | h | h
  all_goals
    rw [Runs, h]
    rw [h] at hi
    subst hi
    obtain rfl : _ = mode := Operand.mem.inj (Option.some.inj ho)
    exact fun _ => rfl

theorem runs_sty {i : Instr} {mode : AddrMode} (h : i.opcode ∈ styOpcodes) (ho : dataOperand i = some (.mem mode)) :
    Runs i (storeY mode) := by
  obtain ⟨q, hi⟩ := i.of_opcode
  simp only [styOpcodes, List.mem_cons, List.not_mem_nil, or_false] at h
  rcases h with h | h | h
  all_goals
    rw [Runs, h]
    rw [h] at hi
    subst hi
    obtain rfl : _ = mode := Operand.mem.inj (Option.some.inj ho)
    exact fun _ => rfl

theorem runs_stz {i : Instr} {mode : AddrMode} (h : i.opcode ∈ stzOpcodes) (ho : dataOperand i = some (.mem mode)) :
    Runs i (storeZero mode) := by
  obtain ⟨q, hi⟩ := i.of_opcode
  simp only [stzOpcodes, List.mem_cons, List.not_mem_nil, or_false] at h
  rcases h with h | h | h | h
  all_goals
    rw [Runs, h]
    rw [h] at hi
    subst hi
    obtain rfl : _ = mode := Operand.mem.inj (Option.some.inj ho)
    exact fun _ => rfl

theorem runs_inc {i : Instr} {mode : AddrMode} (h : i.opcode ∈ incOpcodes) (ho : dataOperand i = some (.mem mode)) :
    Runs i (modifyMemory increment mode) := by
  obtain ⟨q, hi⟩ := i.of_opcode
  simp only [incOpcodes, List.mem_cons, List.not_mem_nil, or_false] at h
  rcases h with h | h | h | h
  all_goals
    rw [Runs, h]
    rw [h] at hi
    subst hi
    obtain rfl : _ = mode := Operand.mem.inj (Option.some.inj ho)
    exact fun _ => rfl

theorem runs_dec {i : Instr} {mode : AddrMode} (h : i.opcode ∈ decOpcodes) (ho : dataOperand i = some (.mem mode)) :
    Runs i (modifyMemory decrement mode) := by
  obtain ⟨q, hi⟩ := i.of_opcode
  simp only [decOpcodes, List.mem_cons, List.not_mem_nil, or_false] at h
  rcases h with h | h | h | h
  all_goals
    rw [Runs, h]
    rw [h] at hi
    subst hi
    obtain rfl : _ = mode := Operand.mem.inj (Option.some.inj ho)
    exact fun _ => rfl

theorem runs_asl {i : Instr} {mode : AddrMode} (h : i.opcode ∈ aslOpcodes) (ho : dataOperand i = some (.mem mode)) :
    Runs i (modifyMemory shiftLeft mode) := by
  obtain ⟨q, hi⟩ := i.of_opcode
  simp only [aslOpcodes, List.mem_cons, List.not_mem_nil, or_false] at h
  rcases h with h | h | h | h
  all_goals
    rw [Runs, h]
    rw [h] at hi
    subst hi
    obtain rfl : _ = mode := Operand.mem.inj (Option.some.inj ho)
    exact fun _ => rfl

theorem runs_lsr {i : Instr} {mode : AddrMode} (h : i.opcode ∈ lsrOpcodes) (ho : dataOperand i = some (.mem mode)) :
    Runs i (modifyMemory shiftRight mode) := by
  obtain ⟨q, hi⟩ := i.of_opcode
  simp only [lsrOpcodes, List.mem_cons, List.not_mem_nil, or_false] at h
  rcases h with h | h | h | h
  all_goals
    rw [Runs, h]
    rw [h] at hi
    subst hi
    obtain rfl : _ = mode := Operand.mem.inj (Option.some.inj ho)
    exact fun _ => rfl

theorem runs_rol {i : Instr} {mode : AddrMode} (h : i.opcode ∈ rolOpcodes) (ho : dataOperand i = some (.mem mode)) :
    Runs i (modifyMemory rotateLeft mode) := by
  obtain ⟨q, hi⟩ := i.of_opcode
  simp only [rolOpcodes, List.mem_cons, List.not_mem_nil, or_false] at h
  rcases h with h | h | h | h
  all_goals
    rw [Runs, h]
    rw [h] at hi
    subst hi
    obtain rfl : _ = mode := Operand.mem.inj (Option.some.inj ho)
    exact fun _ => rfl

theorem runs_ror {i : Instr} {mode : AddrMode} (h : i.opcode ∈ rorOpcodes) (ho : dataOperand i = some (.mem mode)) :
    Runs i (modifyMemory rotateRight mode) := by
  obtain ⟨q, hi⟩ := i.of_opcode
  simp only [rorOpcodes, List.mem_cons, List.not_mem_nil, or_false] at h
  rcases h with h | h | h | h
  all_goals
    rw [Runs, h]
    rw [h] at hi
    subst hi
    obtain rfl : _ = mode := Operand.mem.inj (Option.some.inj ho)
    exact fun _ => rfl

theorem runs_tsb {i : Instr} {mode : AddrMode} (h : i.opcode ∈ tsbOpcodes) (ho : dataOperand i = some (.mem mode)) :
    Runs i (fun base mods s => modifyMemory (fun w => testAndSet w s.getA) mode base mods s) := by
  obtain ⟨q, hi⟩ := i.of_opcode
  simp only [tsbOpcodes, List.mem_cons, List.not_mem_nil, or_false] at h
  rcases h with h | h
  all_goals
    rw [Runs, h]
    rw [h] at hi
    subst hi
    obtain rfl : _ = mode := Operand.mem.inj (Option.some.inj ho)
    exact fun _ => rfl

theorem runs_trb {i : Instr} {mode : AddrMode} (h : i.opcode ∈ trbOpcodes) (ho : dataOperand i = some (.mem mode)) :
    Runs i (fun base mods s => modifyMemory (fun w => testAndReset w s.getA) mode base mods s) := by
  obtain ⟨q, hi⟩ := i.of_opcode
  simp only [trbOpcodes, List.mem_cons, List.not_mem_nil, or_false] at h
  rcases h with h | h
  all_goals
    rw [Runs, h]
    rw [h] at hi
    subst hi
    obtain rfl : _ = mode := Operand.mem.inj (Option.some.inj ho)
    exact fun _ => rfl

/-- Every instruction answers a next state in every state (00_scope.md R11). -/
theorem exec_next (i : Instr) (s : State) : ∃ t, exec i s = .next t := by
  cases i <;> exact ⟨_, rfl⟩

end Sys2Proof.Machine
end

