-- ==== Sys2Proof/Laws/State.lean ====
section
/-! SUPPORT. One lemma per field per named update of the state, each true by rfl, so that no proof unfolds a record update. -/

namespace Sys2Proof.Machine.State

variable (s : State)

@[simp] theorem setA_a (v : Word) : (s.setA v).a = s.wM.merge s.a v := rfl
@[simp] theorem setA_x (v : Word) : (s.setA v).x = s.x := rfl
@[simp] theorem setA_y (v : Word) : (s.setA v).y = s.y := rfl
@[simp] theorem setA_sp (v : Word) : (s.setA v).sp = s.sp := rfl
@[simp] theorem setA_d (v : Word) : (s.setA v).d = s.d := rfl
@[simp] theorem setA_pc (v : Word) : (s.setA v).pc = s.pc := rfl
@[simp] theorem setA_pbr (v : Word) : (s.setA v).pbr = s.pbr := rfl
@[simp] theorem setA_dbr (v : Word) : (s.setA v).dbr = s.dbr := rfl
@[simp] theorem setA_p (v : Word) : (s.setA v).p = s.p := rfl
@[simp] theorem setA_e (v : Word) : (s.setA v).e = s.e := rfl
@[simp] theorem setA_cycles (v : Word) : (s.setA v).cycles = s.cycles := rfl
@[simp] theorem setA_waiting (v : Word) : (s.setA v).waiting = s.waiting := rfl
@[simp] theorem setA_stopped (v : Word) : (s.setA v).stopped = s.stopped := rfl
@[simp] theorem setA_bus (v : Word) : (s.setA v).bus = s.bus := rfl

@[simp] theorem setX_a (v : Word) : (s.setX v).a = s.a := rfl
@[simp] theorem setX_x (v : Word) : (s.setX v).x = s.wX.trunc v := rfl
@[simp] theorem setX_y (v : Word) : (s.setX v).y = s.y := rfl
@[simp] theorem setX_sp (v : Word) : (s.setX v).sp = s.sp := rfl
@[simp] theorem setX_d (v : Word) : (s.setX v).d = s.d := rfl
@[simp] theorem setX_pc (v : Word) : (s.setX v).pc = s.pc := rfl
@[simp] theorem setX_pbr (v : Word) : (s.setX v).pbr = s.pbr := rfl
@[simp] theorem setX_dbr (v : Word) : (s.setX v).dbr = s.dbr := rfl
@[simp] theorem setX_p (v : Word) : (s.setX v).p = s.p := rfl
@[simp] theorem setX_e (v : Word) : (s.setX v).e = s.e := rfl
@[simp] theorem setX_cycles (v : Word) : (s.setX v).cycles = s.cycles := rfl
@[simp] theorem setX_waiting (v : Word) : (s.setX v).waiting = s.waiting := rfl
@[simp] theorem setX_stopped (v : Word) : (s.setX v).stopped = s.stopped := rfl
@[simp] theorem setX_bus (v : Word) : (s.setX v).bus = s.bus := rfl

@[simp] theorem setY_a (v : Word) : (s.setY v).a = s.a := rfl
@[simp] theorem setY_x (v : Word) : (s.setY v).x = s.x := rfl
@[simp] theorem setY_y (v : Word) : (s.setY v).y = s.wX.trunc v := rfl
@[simp] theorem setY_sp (v : Word) : (s.setY v).sp = s.sp := rfl
@[simp] theorem setY_d (v : Word) : (s.setY v).d = s.d := rfl
@[simp] theorem setY_pc (v : Word) : (s.setY v).pc = s.pc := rfl
@[simp] theorem setY_pbr (v : Word) : (s.setY v).pbr = s.pbr := rfl
@[simp] theorem setY_dbr (v : Word) : (s.setY v).dbr = s.dbr := rfl
@[simp] theorem setY_p (v : Word) : (s.setY v).p = s.p := rfl
@[simp] theorem setY_e (v : Word) : (s.setY v).e = s.e := rfl
@[simp] theorem setY_cycles (v : Word) : (s.setY v).cycles = s.cycles := rfl
@[simp] theorem setY_waiting (v : Word) : (s.setY v).waiting = s.waiting := rfl
@[simp] theorem setY_stopped (v : Word) : (s.setY v).stopped = s.stopped := rfl
@[simp] theorem setY_bus (v : Word) : (s.setY v).bus = s.bus := rfl

@[simp] theorem withBus_a (b : Bus) : (s.withBus b).a = s.a := rfl
@[simp] theorem withBus_x (b : Bus) : (s.withBus b).x = s.x := rfl
@[simp] theorem withBus_y (b : Bus) : (s.withBus b).y = s.y := rfl
@[simp] theorem withBus_sp (b : Bus) : (s.withBus b).sp = s.sp := rfl
@[simp] theorem withBus_d (b : Bus) : (s.withBus b).d = s.d := rfl
@[simp] theorem withBus_pc (b : Bus) : (s.withBus b).pc = s.pc := rfl
@[simp] theorem withBus_pbr (b : Bus) : (s.withBus b).pbr = s.pbr := rfl
@[simp] theorem withBus_dbr (b : Bus) : (s.withBus b).dbr = s.dbr := rfl
@[simp] theorem withBus_p (b : Bus) : (s.withBus b).p = s.p := rfl
@[simp] theorem withBus_e (b : Bus) : (s.withBus b).e = s.e := rfl
@[simp] theorem withBus_cycles (b : Bus) : (s.withBus b).cycles = s.cycles := rfl
@[simp] theorem withBus_waiting (b : Bus) : (s.withBus b).waiting = s.waiting := rfl
@[simp] theorem withBus_stopped (b : Bus) : (s.withBus b).stopped = s.stopped := rfl
@[simp] theorem withBus_bus (b : Bus) : (s.withBus b).bus = b := rfl

@[simp] theorem withP_a (v : Byte) : (s.withP v).a = s.a := rfl
@[simp] theorem withP_x (v : Byte) : (s.withP v).x = s.x := rfl
@[simp] theorem withP_y (v : Byte) : (s.withP v).y = s.y := rfl
@[simp] theorem withP_sp (v : Byte) : (s.withP v).sp = s.sp := rfl
@[simp] theorem withP_d (v : Byte) : (s.withP v).d = s.d := rfl
@[simp] theorem withP_pc (v : Byte) : (s.withP v).pc = s.pc := rfl
@[simp] theorem withP_pbr (v : Byte) : (s.withP v).pbr = s.pbr := rfl
@[simp] theorem withP_dbr (v : Byte) : (s.withP v).dbr = s.dbr := rfl
@[simp] theorem withP_p (v : Byte) : (s.withP v).p = v := rfl
@[simp] theorem withP_e (v : Byte) : (s.withP v).e = s.e := rfl
@[simp] theorem withP_cycles (v : Byte) : (s.withP v).cycles = s.cycles := rfl
@[simp] theorem withP_waiting (v : Byte) : (s.withP v).waiting = s.waiting := rfl
@[simp] theorem withP_stopped (v : Byte) : (s.withP v).stopped = s.stopped := rfl
@[simp] theorem withP_bus (v : Byte) : (s.withP v).bus = s.bus := rfl

@[simp] theorem setNZ_a (w : Width) (v : Word) : (s.setNZ w v).a = s.a := rfl
@[simp] theorem setNZ_x (w : Width) (v : Word) : (s.setNZ w v).x = s.x := rfl
@[simp] theorem setNZ_y (w : Width) (v : Word) : (s.setNZ w v).y = s.y := rfl
@[simp] theorem setNZ_sp (w : Width) (v : Word) : (s.setNZ w v).sp = s.sp := rfl
@[simp] theorem setNZ_d (w : Width) (v : Word) : (s.setNZ w v).d = s.d := rfl
@[simp] theorem setNZ_pc (w : Width) (v : Word) : (s.setNZ w v).pc = s.pc := rfl
@[simp] theorem setNZ_pbr (w : Width) (v : Word) : (s.setNZ w v).pbr = s.pbr := rfl
@[simp] theorem setNZ_dbr (w : Width) (v : Word) : (s.setNZ w v).dbr = s.dbr := rfl
@[simp] theorem setNZ_p (w : Width) (v : Word) : (s.setNZ w v).p = Machine.setNZ s.p w v := rfl
@[simp] theorem setNZ_e (w : Width) (v : Word) : (s.setNZ w v).e = s.e := rfl
@[simp] theorem setNZ_cycles (w : Width) (v : Word) : (s.setNZ w v).cycles = s.cycles := rfl
@[simp] theorem setNZ_waiting (w : Width) (v : Word) : (s.setNZ w v).waiting = s.waiting := rfl
@[simp] theorem setNZ_stopped (w : Width) (v : Word) : (s.setNZ w v).stopped = s.stopped := rfl
@[simp] theorem setNZ_bus (w : Width) (v : Word) : (s.setNZ w v).bus = s.bus := rfl

@[simp] theorem putFlag_a (f : Flag) (b : Bool) : (s.putFlag f b).a = s.a := rfl
@[simp] theorem putFlag_x (f : Flag) (b : Bool) : (s.putFlag f b).x = s.x := rfl
@[simp] theorem putFlag_y (f : Flag) (b : Bool) : (s.putFlag f b).y = s.y := rfl
@[simp] theorem putFlag_sp (f : Flag) (b : Bool) : (s.putFlag f b).sp = s.sp := rfl
@[simp] theorem putFlag_d (f : Flag) (b : Bool) : (s.putFlag f b).d = s.d := rfl
@[simp] theorem putFlag_pc (f : Flag) (b : Bool) : (s.putFlag f b).pc = s.pc := rfl
@[simp] theorem putFlag_pbr (f : Flag) (b : Bool) : (s.putFlag f b).pbr = s.pbr := rfl
@[simp] theorem putFlag_dbr (f : Flag) (b : Bool) : (s.putFlag f b).dbr = s.dbr := rfl
@[simp] theorem putFlag_p (f : Flag) (b : Bool) : (s.putFlag f b).p = setFlag s.p f b := rfl
@[simp] theorem putFlag_e (f : Flag) (b : Bool) : (s.putFlag f b).e = s.e := rfl
@[simp] theorem putFlag_cycles (f : Flag) (b : Bool) : (s.putFlag f b).cycles = s.cycles := rfl
@[simp] theorem putFlag_waiting (f : Flag) (b : Bool) : (s.putFlag f b).waiting = s.waiting := rfl
@[simp] theorem putFlag_stopped (f : Flag) (b : Bool) : (s.putFlag f b).stopped = s.stopped := rfl
@[simp] theorem putFlag_bus (f : Flag) (b : Bool) : (s.putFlag f b).bus = s.bus := rfl

@[simp] theorem setP_a (v : Byte) : (s.setP v).a = s.a := rfl
@[simp] theorem setP_x (v : Byte) : (s.setP v).x = if flag v .x then zextWord (loByte s.x) else s.x := rfl
@[simp] theorem setP_y (v : Byte) : (s.setP v).y = if flag v .x then zextWord (loByte s.y) else s.y := rfl
@[simp] theorem setP_sp (v : Byte) : (s.setP v).sp = s.sp := rfl
@[simp] theorem setP_d (v : Byte) : (s.setP v).d = s.d := rfl
@[simp] theorem setP_pc (v : Byte) : (s.setP v).pc = s.pc := rfl
@[simp] theorem setP_pbr (v : Byte) : (s.setP v).pbr = s.pbr := rfl
@[simp] theorem setP_dbr (v : Byte) : (s.setP v).dbr = s.dbr := rfl
@[simp] theorem setP_p (v : Byte) : (s.setP v).p = v := rfl
@[simp] theorem setP_e (v : Byte) : (s.setP v).e = s.e := rfl
@[simp] theorem setP_cycles (v : Byte) : (s.setP v).cycles = s.cycles := rfl
@[simp] theorem setP_waiting (v : Byte) : (s.setP v).waiting = s.waiting := rfl
@[simp] theorem setP_stopped (v : Byte) : (s.setP v).stopped = s.stopped := rfl
@[simp] theorem setP_bus (v : Byte) : (s.setP v).bus = s.bus := rfl

@[simp] theorem transferToS_a (v : Word) : (s.transferToS v).a = s.a := rfl
@[simp] theorem transferToS_x (v : Word) : (s.transferToS v).x = s.x := rfl
@[simp] theorem transferToS_y (v : Word) : (s.transferToS v).y = s.y := rfl
@[simp] theorem transferToS_sp (v : Word) : (s.transferToS v).sp = if s.e then mkWord 0x01 (loByte v) else v := rfl
@[simp] theorem transferToS_d (v : Word) : (s.transferToS v).d = s.d := rfl
@[simp] theorem transferToS_pc (v : Word) : (s.transferToS v).pc = s.pc := rfl
@[simp] theorem transferToS_pbr (v : Word) : (s.transferToS v).pbr = s.pbr := rfl
@[simp] theorem transferToS_dbr (v : Word) : (s.transferToS v).dbr = s.dbr := rfl
@[simp] theorem transferToS_p (v : Word) : (s.transferToS v).p = s.p := rfl
@[simp] theorem transferToS_e (v : Word) : (s.transferToS v).e = s.e := rfl
@[simp] theorem transferToS_cycles (v : Word) : (s.transferToS v).cycles = s.cycles := rfl
@[simp] theorem transferToS_waiting (v : Word) : (s.transferToS v).waiting = s.waiting := rfl
@[simp] theorem transferToS_stopped (v : Word) : (s.transferToS v).stopped = s.stopped := rfl
@[simp] theorem transferToS_bus (v : Word) : (s.transferToS v).bus = s.bus := rfl

@[simp] theorem addCycles_a (n : Nat) : (s.addCycles n).a = s.a := rfl
@[simp] theorem addCycles_x (n : Nat) : (s.addCycles n).x = s.x := rfl
@[simp] theorem addCycles_y (n : Nat) : (s.addCycles n).y = s.y := rfl
@[simp] theorem addCycles_sp (n : Nat) : (s.addCycles n).sp = s.sp := rfl
@[simp] theorem addCycles_d (n : Nat) : (s.addCycles n).d = s.d := rfl
@[simp] theorem addCycles_pc (n : Nat) : (s.addCycles n).pc = s.pc := rfl
@[simp] theorem addCycles_pbr (n : Nat) : (s.addCycles n).pbr = s.pbr := rfl
@[simp] theorem addCycles_dbr (n : Nat) : (s.addCycles n).dbr = s.dbr := rfl
@[simp] theorem addCycles_p (n : Nat) : (s.addCycles n).p = s.p := rfl
@[simp] theorem addCycles_e (n : Nat) : (s.addCycles n).e = s.e := rfl
@[simp] theorem addCycles_cycles (n : Nat) : (s.addCycles n).cycles = s.cycles + n := rfl
@[simp] theorem addCycles_waiting (n : Nat) : (s.addCycles n).waiting = s.waiting := rfl
@[simp] theorem addCycles_stopped (n : Nat) : (s.addCycles n).stopped = s.stopped := rfl
@[simp] theorem addCycles_bus (n : Nat) : (s.addCycles n).bus = s.bus := rfl

@[simp] theorem jump_a (v : Word) : (s.jump v).a = s.a := rfl
@[simp] theorem jump_x (v : Word) : (s.jump v).x = s.x := rfl
@[simp] theorem jump_y (v : Word) : (s.jump v).y = s.y := rfl
@[simp] theorem jump_sp (v : Word) : (s.jump v).sp = s.sp := rfl
@[simp] theorem jump_d (v : Word) : (s.jump v).d = s.d := rfl
@[simp] theorem jump_pc (v : Word) : (s.jump v).pc = v := rfl
@[simp] theorem jump_pbr (v : Word) : (s.jump v).pbr = s.pbr := rfl
@[simp] theorem jump_dbr (v : Word) : (s.jump v).dbr = s.dbr := rfl
@[simp] theorem jump_p (v : Word) : (s.jump v).p = s.p := rfl
@[simp] theorem jump_e (v : Word) : (s.jump v).e = s.e := rfl
@[simp] theorem jump_cycles (v : Word) : (s.jump v).cycles = s.cycles := rfl
@[simp] theorem jump_waiting (v : Word) : (s.jump v).waiting = s.waiting := rfl
@[simp] theorem jump_stopped (v : Word) : (s.jump v).stopped = s.stopped := rfl
@[simp] theorem jump_bus (v : Word) : (s.jump v).bus = s.bus := rfl

@[simp] theorem jumpLong_a (v : Addr) : (s.jumpLong v).a = s.a := rfl
@[simp] theorem jumpLong_x (v : Addr) : (s.jumpLong v).x = s.x := rfl
@[simp] theorem jumpLong_y (v : Addr) : (s.jumpLong v).y = s.y := rfl
@[simp] theorem jumpLong_sp (v : Addr) : (s.jumpLong v).sp = s.sp := rfl
@[simp] theorem jumpLong_d (v : Addr) : (s.jumpLong v).d = s.d := rfl
@[simp] theorem jumpLong_pc (v : Addr) : (s.jumpLong v).pc = v.offset := rfl
@[simp] theorem jumpLong_pbr (v : Addr) : (s.jumpLong v).pbr = v.bank := rfl
@[simp] theorem jumpLong_dbr (v : Addr) : (s.jumpLong v).dbr = s.dbr := rfl
@[simp] theorem jumpLong_p (v : Addr) : (s.jumpLong v).p = s.p := rfl
@[simp] theorem jumpLong_e (v : Addr) : (s.jumpLong v).e = s.e := rfl
@[simp] theorem jumpLong_cycles (v : Addr) : (s.jumpLong v).cycles = s.cycles := rfl
@[simp] theorem jumpLong_waiting (v : Addr) : (s.jumpLong v).waiting = s.waiting := rfl
@[simp] theorem jumpLong_stopped (v : Addr) : (s.jumpLong v).stopped = s.stopped := rfl
@[simp] theorem jumpLong_bus (v : Addr) : (s.jumpLong v).bus = s.bus := rfl

@[simp] theorem push8_a (v : Byte) : (s.push8 v).a = s.a := rfl
@[simp] theorem push8_x (v : Byte) : (s.push8 v).x = s.x := rfl
@[simp] theorem push8_y (v : Byte) : (s.push8 v).y = s.y := rfl
@[simp] theorem push8_sp (v : Byte) : (s.push8 v).sp = s.sp - 1 := rfl
@[simp] theorem push8_d (v : Byte) : (s.push8 v).d = s.d := rfl
@[simp] theorem push8_pc (v : Byte) : (s.push8 v).pc = s.pc := rfl
@[simp] theorem push8_pbr (v : Byte) : (s.push8 v).pbr = s.pbr := rfl
@[simp] theorem push8_dbr (v : Byte) : (s.push8 v).dbr = s.dbr := rfl
@[simp] theorem push8_p (v : Byte) : (s.push8 v).p = s.p := rfl
@[simp] theorem push8_e (v : Byte) : (s.push8 v).e = s.e := rfl
@[simp] theorem push8_cycles (v : Byte) : (s.push8 v).cycles = s.cycles := rfl
@[simp] theorem push8_waiting (v : Byte) : (s.push8 v).waiting = s.waiting := rfl
@[simp] theorem push8_stopped (v : Byte) : (s.push8 v).stopped = s.stopped := rfl
@[simp] theorem push8_bus (v : Byte) : (s.push8 v).bus = s.bus.write (mkAddr 0x00 s.sp) v := rfl

@[simp] theorem push16_a (v : Word) : (s.push16 v).a = s.a := rfl
@[simp] theorem push16_x (v : Word) : (s.push16 v).x = s.x := rfl
@[simp] theorem push16_y (v : Word) : (s.push16 v).y = s.y := rfl
@[simp] theorem push16_sp (v : Word) : (s.push16 v).sp = s.sp - 1 - 1 := rfl
@[simp] theorem push16_d (v : Word) : (s.push16 v).d = s.d := rfl
@[simp] theorem push16_pc (v : Word) : (s.push16 v).pc = s.pc := rfl
@[simp] theorem push16_pbr (v : Word) : (s.push16 v).pbr = s.pbr := rfl
@[simp] theorem push16_dbr (v : Word) : (s.push16 v).dbr = s.dbr := rfl
@[simp] theorem push16_p (v : Word) : (s.push16 v).p = s.p := rfl
@[simp] theorem push16_e (v : Word) : (s.push16 v).e = s.e := rfl
@[simp] theorem push16_cycles (v : Word) : (s.push16 v).cycles = s.cycles := rfl
@[simp] theorem push16_waiting (v : Word) : (s.push16 v).waiting = s.waiting := rfl
@[simp] theorem push16_stopped (v : Word) : (s.push16 v).stopped = s.stopped := rfl
@[simp] theorem push16_bus (v : Word) : (s.push16 v).bus = (s.bus.write (mkAddr 0x00 s.sp) (hiByte v)).write (mkAddr 0x00 (s.sp - 1)) (loByte v) := rfl

@[simp] theorem pop8_a : (s.pop8.2).a = s.a := rfl
@[simp] theorem pop8_x : (s.pop8.2).x = s.x := rfl
@[simp] theorem pop8_y : (s.pop8.2).y = s.y := rfl
@[simp] theorem pop8_sp : (s.pop8.2).sp = s.sp + 1 := rfl
@[simp] theorem pop8_d : (s.pop8.2).d = s.d := rfl
@[simp] theorem pop8_pc : (s.pop8.2).pc = s.pc := rfl
@[simp] theorem pop8_pbr : (s.pop8.2).pbr = s.pbr := rfl
@[simp] theorem pop8_dbr : (s.pop8.2).dbr = s.dbr := rfl
@[simp] theorem pop8_p : (s.pop8.2).p = s.p := rfl
@[simp] theorem pop8_e : (s.pop8.2).e = s.e := rfl
@[simp] theorem pop8_cycles : (s.pop8.2).cycles = s.cycles := rfl
@[simp] theorem pop8_waiting : (s.pop8.2).waiting = s.waiting := rfl
@[simp] theorem pop8_stopped : (s.pop8.2).stopped = s.stopped := rfl
@[simp] theorem pop8_bus : (s.pop8.2).bus = (s.bus.read (mkAddr 0x00 (s.sp + 1))).2 := rfl

@[simp] theorem pop16_a : (s.pop16.2).a = s.a := rfl
@[simp] theorem pop16_x : (s.pop16.2).x = s.x := rfl
@[simp] theorem pop16_y : (s.pop16.2).y = s.y := rfl
@[simp] theorem pop16_sp : (s.pop16.2).sp = s.sp + 1 + 1 := rfl
@[simp] theorem pop16_d : (s.pop16.2).d = s.d := rfl
@[simp] theorem pop16_pc : (s.pop16.2).pc = s.pc := rfl
@[simp] theorem pop16_pbr : (s.pop16.2).pbr = s.pbr := rfl
@[simp] theorem pop16_dbr : (s.pop16.2).dbr = s.dbr := rfl
@[simp] theorem pop16_p : (s.pop16.2).p = s.p := rfl
@[simp] theorem pop16_e : (s.pop16.2).e = s.e := rfl
@[simp] theorem pop16_cycles : (s.pop16.2).cycles = s.cycles := rfl
@[simp] theorem pop16_waiting : (s.pop16.2).waiting = s.waiting := rfl
@[simp] theorem pop16_stopped : (s.pop16.2).stopped = s.stopped := rfl
@[simp] theorem pop16_bus : (s.pop16.2).bus = ((s.bus.read (mkAddr 0x00 (s.sp + 1))).2.read (mkAddr 0x00 (s.sp + 1 + 1))).2 := rfl

@[simp] theorem fetch8_a : (s.fetch8.2).a = s.a := rfl
@[simp] theorem fetch8_x : (s.fetch8.2).x = s.x := rfl
@[simp] theorem fetch8_y : (s.fetch8.2).y = s.y := rfl
@[simp] theorem fetch8_sp : (s.fetch8.2).sp = s.sp := rfl
@[simp] theorem fetch8_d : (s.fetch8.2).d = s.d := rfl
@[simp] theorem fetch8_pc : (s.fetch8.2).pc = s.pc + 1 := rfl
@[simp] theorem fetch8_pbr : (s.fetch8.2).pbr = s.pbr := rfl
@[simp] theorem fetch8_dbr : (s.fetch8.2).dbr = s.dbr := rfl
@[simp] theorem fetch8_p : (s.fetch8.2).p = s.p := rfl
@[simp] theorem fetch8_e : (s.fetch8.2).e = s.e := rfl
@[simp] theorem fetch8_cycles : (s.fetch8.2).cycles = s.cycles := rfl
@[simp] theorem fetch8_waiting : (s.fetch8.2).waiting = s.waiting := rfl
@[simp] theorem fetch8_stopped : (s.fetch8.2).stopped = s.stopped := rfl
@[simp] theorem fetch8_bus : (s.fetch8.2).bus = (s.bus.read (mkAddr s.pbr s.pc)).2 := rfl

@[simp] theorem enterEmulation_a : (s.enterEmulation).a = s.a := rfl
@[simp] theorem enterEmulation_x : (s.enterEmulation).x = zextWord (loByte s.x) := rfl
@[simp] theorem enterEmulation_y : (s.enterEmulation).y = zextWord (loByte s.y) := rfl
@[simp] theorem enterEmulation_sp : (s.enterEmulation).sp = mkWord 0x01 (loByte s.sp) := rfl
@[simp] theorem enterEmulation_d : (s.enterEmulation).d = s.d := rfl
@[simp] theorem enterEmulation_pc : (s.enterEmulation).pc = s.pc := rfl
@[simp] theorem enterEmulation_pbr : (s.enterEmulation).pbr = s.pbr := rfl
@[simp] theorem enterEmulation_dbr : (s.enterEmulation).dbr = s.dbr := rfl
@[simp] theorem enterEmulation_p : (s.enterEmulation).p = setFlag (setFlag s.p .m true) .x true := rfl
@[simp] theorem enterEmulation_e : (s.enterEmulation).e = s.e := rfl
@[simp] theorem enterEmulation_cycles : (s.enterEmulation).cycles = s.cycles := rfl
@[simp] theorem enterEmulation_waiting : (s.enterEmulation).waiting = s.waiting := rfl
@[simp] theorem enterEmulation_stopped : (s.enterEmulation).stopped = s.stopped := rfl
@[simp] theorem enterEmulation_bus : (s.enterEmulation).bus = s.bus := rfl

@[simp] theorem idle_a : (s.idle).a = s.a := rfl
@[simp] theorem idle_x : (s.idle).x = s.x := rfl
@[simp] theorem idle_y : (s.idle).y = s.y := rfl
@[simp] theorem idle_sp : (s.idle).sp = s.sp := rfl
@[simp] theorem idle_d : (s.idle).d = s.d := rfl
@[simp] theorem idle_pc : (s.idle).pc = s.pc := rfl
@[simp] theorem idle_pbr : (s.idle).pbr = s.pbr := rfl
@[simp] theorem idle_dbr : (s.idle).dbr = s.dbr := rfl
@[simp] theorem idle_p : (s.idle).p = s.p := rfl
@[simp] theorem idle_e : (s.idle).e = s.e := rfl
@[simp] theorem idle_cycles : (s.idle).cycles = s.cycles + 1 := rfl
@[simp] theorem idle_waiting : (s.idle).waiting = s.waiting := rfl
@[simp] theorem idle_stopped : (s.idle).stopped = s.stopped := rfl
@[simp] theorem idle_bus : (s.idle).bus = s.bus := rfl

@[simp] theorem awake_a : (s.awake).a = s.a := rfl
@[simp] theorem awake_x : (s.awake).x = s.x := rfl
@[simp] theorem awake_y : (s.awake).y = s.y := rfl
@[simp] theorem awake_sp : (s.awake).sp = s.sp := rfl
@[simp] theorem awake_d : (s.awake).d = s.d := rfl
@[simp] theorem awake_pc : (s.awake).pc = s.pc := rfl
@[simp] theorem awake_pbr : (s.awake).pbr = s.pbr := rfl
@[simp] theorem awake_dbr : (s.awake).dbr = s.dbr := rfl
@[simp] theorem awake_p : (s.awake).p = s.p := rfl
@[simp] theorem awake_e : (s.awake).e = s.e := rfl
@[simp] theorem awake_cycles : (s.awake).cycles = s.cycles := rfl
@[simp] theorem awake_waiting : (s.awake).waiting = false := rfl
@[simp] theorem awake_stopped : (s.awake).stopped = s.stopped := rfl
@[simp] theorem awake_bus : (s.awake).bus = s.bus := rfl

@[simp] theorem setA_wM (v : Word) : (s.setA v).wM = s.wM := rfl
@[simp] theorem withBus_wM (b : Bus) : (s.withBus b).wM = s.wM := rfl
@[simp] theorem withBus_wX (b : Bus) : (s.withBus b).wX = s.wX := rfl
@[simp] theorem setX_wX (v : Word) : (s.setX v).wX = s.wX := rfl
@[simp] theorem setY_wX (v : Word) : (s.setY v).wX = s.wX := rfl
@[simp] theorem pop8_wM : s.pop8.2.wM = s.wM := rfl
@[simp] theorem pop8_wX : s.pop8.2.wX = s.wX := rfl
@[simp] theorem pop16_wM : s.pop16.2.wM = s.wM := rfl
@[simp] theorem pop16_wX : s.pop16.2.wX = s.wX := rfl
@[simp] theorem withBus_self : s.withBus s.bus = s := rfl
@[simp] theorem pop8_value : s.pop8.1 = (s.bus.read (mkAddr 0x00 (s.sp + 1))).1 := rfl
@[simp] theorem fetch8_value : s.fetch8.1 = (s.bus.read (mkAddr s.pbr s.pc)).1 := rfl

end Sys2Proof.Machine.State
end

