-- ==== Sys2Proof/Laws/Ops.lean ====
section
/-! SUPPORT. The laws of the stack operations, of register writes and of taking an interrupt. -/

namespace Sys2Proof.Machine.State

theorem push8_grows (s : State) (v : Byte) : s.bus.Grows (s.push8 v).bus := Bus.write_grows _ _ _

theorem push16_grows (s : State) (v : Word) : s.bus.Grows (s.push16 v).bus := (push8_grows _ _).trans (push8_grows _ _)

theorem pushAt_grows (s : State) (w : Width) (v : Word) : s.bus.Grows (s.pushAt w v).bus := by
  cases w
  · exact push8_grows _ _
  · exact push16_grows _ _

theorem pop8_grows (s : State) : s.bus.Grows s.pop8.2.bus := Bus.read_grows _ _

theorem pop16_grows (s : State) : s.bus.Grows s.pop16.2.bus := (pop8_grows s).trans (pop8_grows _)

theorem popAt_grows (s : State) (w : Width) : s.bus.Grows (s.popAt w).2.bus := by
  cases w
  · exact pop8_grows s
  · exact pop16_grows s

@[simp] theorem popAt_a (s : State) (w : Width) : (s.popAt w).2.a = s.a := by cases w <;> rfl
@[simp] theorem popAt_x (s : State) (w : Width) : (s.popAt w).2.x = s.x := by cases w <;> rfl
@[simp] theorem popAt_y (s : State) (w : Width) : (s.popAt w).2.y = s.y := by cases w <;> rfl
@[simp] theorem popAt_d (s : State) (w : Width) : (s.popAt w).2.d = s.d := by cases w <;> rfl
@[simp] theorem popAt_pc (s : State) (w : Width) : (s.popAt w).2.pc = s.pc := by cases w <;> rfl
@[simp] theorem popAt_pbr (s : State) (w : Width) : (s.popAt w).2.pbr = s.pbr := by cases w <;> rfl
@[simp] theorem popAt_dbr (s : State) (w : Width) : (s.popAt w).2.dbr = s.dbr := by cases w <;> rfl
@[simp] theorem popAt_p (s : State) (w : Width) : (s.popAt w).2.p = s.p := by cases w <;> rfl
@[simp] theorem popAt_e (s : State) (w : Width) : (s.popAt w).2.e = s.e := by cases w <;> rfl
@[simp] theorem popAt_cycles (s : State) (w : Width) : (s.popAt w).2.cycles = s.cycles := by cases w <;> rfl
@[simp] theorem popAt_waiting (s : State) (w : Width) : (s.popAt w).2.waiting = s.waiting := by cases w <;> rfl
@[simp] theorem popAt_stopped (s : State) (w : Width) : (s.popAt w).2.stopped = s.stopped := by cases w <;> rfl

@[simp] theorem pushAt_a (s : State) (w : Width) (v : Word) : (s.pushAt w v).a = s.a := by cases w <;> rfl
@[simp] theorem pushAt_x (s : State) (w : Width) (v : Word) : (s.pushAt w v).x = s.x := by cases w <;> rfl
@[simp] theorem pushAt_y (s : State) (w : Width) (v : Word) : (s.pushAt w v).y = s.y := by cases w <;> rfl
@[simp] theorem pushAt_d (s : State) (w : Width) (v : Word) : (s.pushAt w v).d = s.d := by cases w <;> rfl
@[simp] theorem pushAt_pc (s : State) (w : Width) (v : Word) : (s.pushAt w v).pc = s.pc := by cases w <;> rfl
@[simp] theorem pushAt_pbr (s : State) (w : Width) (v : Word) : (s.pushAt w v).pbr = s.pbr := by cases w <;> rfl
@[simp] theorem pushAt_dbr (s : State) (w : Width) (v : Word) : (s.pushAt w v).dbr = s.dbr := by cases w <;> rfl
@[simp] theorem pushAt_p (s : State) (w : Width) (v : Word) : (s.pushAt w v).p = s.p := by cases w <;> rfl
@[simp] theorem pushAt_e (s : State) (w : Width) (v : Word) : (s.pushAt w v).e = s.e := by cases w <;> rfl
@[simp] theorem pushAt_cycles (s : State) (w : Width) (v : Word) : (s.pushAt w v).cycles = s.cycles := by cases w <;> rfl
@[simp] theorem pushAt_waiting (s : State) (w : Width) (v : Word) : (s.pushAt w v).waiting = s.waiting := by cases w <;> rfl
@[simp] theorem pushAt_stopped (s : State) (w : Width) (v : Word) : (s.pushAt w v).stopped = s.stopped := by cases w <;> rfl

/-- What a pull at a width leaves but for S and the bus. -/
theorem popAt_keeps (s : State) (w : Width) :
    ∃ sp bus, (s.popAt w).2 = { s with sp := sp, bus := bus } := by
  cases w <;> exact ⟨_, _, rfl⟩

/-- What a push at a width leaves but for S and the bus. -/
theorem pushAt_keeps (s : State) (w : Width) (v : Word) : ∃ sp bus, s.pushAt w v = { s with sp := sp, bus := bus } := by
  cases w <;> exact ⟨_, _, rfl⟩

/-- A pull of one byte that can be peeked. -/
theorem pop8_of_peek {s : State} {v : Byte} (h : s.bus.peek (mkAddr 0x00 (s.sp + 1)) = some v) :
    s.pop8 = (v, { s with sp := s.sp + 1 }) := by
  simp only [pop8, Bus.read_of_peek h]

/-- The index-width rule of 10_state.md R31 depends on P.X, X and Y alone. -/
theorem indexWidthInv_of_eq {s t : State} (hx : flag t.p .x = flag s.p .x) (h1 : t.x = s.x) (h2 : t.y = s.y)
    (h : s.indexWidthInv) : t.indexWidthInv := by
  intro hf
  rw [h1, h2]
  exact h (hx ▸ hf)

theorem hiByte_trunc_wX {s : State} (v : Word) (h : flag s.p .x = true) : hiByte (s.wX.trunc v) = 0 := by
  simp [wX, h, Width.trunc]

/-- A write of X keeps the index-width rule (10_state.md R34). -/
theorem setX_indexWidthInv {s : State} (v : Word) (h : s.indexWidthInv) : (s.setX v).indexWidthInv :=
  fun hf => ⟨hiByte_trunc_wX v hf, (h hf).2⟩

/-- A write of Y keeps the index-width rule (10_state.md R34). -/
theorem setY_indexWidthInv {s : State} (v : Word) (h : s.indexWidthInv) : (s.setY v).indexWidthInv :=
  fun hf => ⟨(h hf).1, hiByte_trunc_wX v hf⟩

/-- A write of the whole of P establishes the index-width rule (10_state.md R36). -/
theorem setP_indexWidthInv (s : State) (v : Byte) : (s.setP v).indexWidthInv := by
  intro hf
  have hv : flag v .x = true := hf
  simp [setP, hv]

theorem vector_upper (e : Bool) (kind : Interrupt) :
    0x8000 ≤ (kind.vector e).toNat ∧ 0x8000 ≤ (kind.vector e + 1).toNat := by
  cases kind <;> cases e <;> decide

/-- The state after the four pushes of an interrupt entry. -/
def pushFrame (s : State) : State := ((s.push8 s.pbr).push16 s.pc).push8 s.p

/-- The frame of an interrupt entry. -/
theorem pushFrame_grows (s : State) : s.bus.Grows s.pushFrame.bus :=
  ((s.push8_grows _).trans (State.push16_grows _ _)).trans (State.push8_grows _ _)

/-- Taking an interrupt: everything it writes, in every state (60_exceptions.md R405). -/
theorem enterInterrupt_eq (s : State) (kind : Interrupt) :
    ∃ lo hi, s.bus.peek (mkAddr 0x00 (kind.vector s.e)) = some lo ∧
      s.bus.peek (mkAddr 0x00 (kind.vector s.e + 1)) = some hi ∧
      s.enterInterrupt kind =
        { s with
          sp := s.sp - 4
          p := setFlag s.p .i true
          pbr := 0x00
          pc := mkWord hi lo
          bus := if kind = .nmi then { s.pushFrame.bus with nmiPending := false } else s.pushFrame.bus } := by
  have hg : s.bus.Grows s.pushFrame.bus := s.pushFrame_grows
  obtain ⟨h1, h2⟩ := vector_upper s.e kind
  have hsp : s.sp - 1 - 1 - 1 - 1 = s.sp - 4 := by bv_omega
  by_cases hk : kind = .nmi
  · subst hk
    obtain ⟨lo, hi, hl, hh, -⟩ := Bus.readBank2_vector hg h1 h2
    obtain ⟨off1, e1⟩ := Bus.locate_upper s.bus.scheme h1
    obtain ⟨off2, e2⟩ := Bus.locate_upper s.bus.scheme h2
    have hr : ({ s.pushFrame.bus with nmiPending := false } : Bus).readBank2 0x00 (Interrupt.nmi.vector s.e) =
        (mkWord hi lo, { s.pushFrame.bus with nmiPending := false }) :=
      Bus.readBank2_of_peek ((Bus.peek_rom e1 hg.scheme hg.rom hg.romLen).trans hl)
        ((Bus.peek_rom e2 hg.scheme hg.rom hg.romLen).trans hh)
    refine ⟨lo, hi, hl, hh, ?_⟩
    simp only [pushFrame] at hr ⊢
    simp only [enterInterrupt, push16, push8, putFlag, withP, hsp, if_true] at hr ⊢
    simp only [hr]
  · obtain ⟨lo, hi, hl, hh, hr⟩ := Bus.readBank2_vector hg h1 h2
    refine ⟨lo, hi, hl, hh, ?_⟩
    simp only [pushFrame] at hr ⊢
    simp only [enterInterrupt, push16, push8, putFlag, withP, hsp, if_neg hk] at hr ⊢
    simp only [hr]

end Sys2Proof.Machine.State
end

