-- ==== Sys2Proof/Laws/Meanings.lean ====
section
/-! SUPPORT. What every shared operation of the meanings may do to the bus and to the index-width rule. -/

namespace Sys2Proof.Machine

/-- What every instruction may do as a whole: the bus only grows in the sense of Laws/Bus.lean, and the index-width rule of
10_state.md R31 is kept. -/
structure Tame (s t : State) : Prop where
  bus : s.bus.Grows t.bus
  index : s.indexWidthInv → t.indexWidthInv

/-- Where the index registers and P.X stand, the bus decides. -/
theorem Tame.of_bus {s t : State} (hb : s.bus.Grows t.bus) (hx : flag t.p .x = flag s.p .x) (h1 : t.x = s.x)
    (h2 : t.y = s.y) : Tame s t :=
  ⟨hb, State.indexWidthInv_of_eq hx h1 h2⟩

/-- A flag computation that leaves P.X. -/
def LeavesX (f : BinaryOp) : Prop := ∀ w p a m, flag (f w p a m).p .x = flag p .x

theorem addWithCarry_leavesX : LeavesX addWithCarry := by intro w p a m; simp [addWithCarry]
theorem subWithBorrow_leavesX : LeavesX subWithBorrow := fun w p a _ => addWithCarry_leavesX w p a _
theorem bitAnd_leavesX : LeavesX bitAnd := by intro w p a m; simp [bitAnd]
theorem bitOr_leavesX : LeavesX bitOr := by intro w p a m; simp [bitOr]
theorem bitXor_leavesX : LeavesX bitXor := by intro w p a m; simp [bitXor]

/-- A flag computation over one value that leaves P.X. -/
def UnaryLeavesX (f : UnaryOp) : Prop := ∀ w p v, flag (f w p v).p .x = flag p .x

theorem increment_leavesX : UnaryLeavesX increment := by intro w p v; simp [increment]
theorem decrement_leavesX : UnaryLeavesX decrement := by intro w p v; simp [decrement]
theorem shiftLeft_leavesX : UnaryLeavesX shiftLeft := by intro w p v; simp [shiftLeft]
theorem shiftRight_leavesX : UnaryLeavesX shiftRight := by intro w p v; simp [shiftRight]
theorem rotateLeft_leavesX : UnaryLeavesX rotateLeft := by intro w p v; simp [rotateLeft]
theorem rotateRight_leavesX : UnaryLeavesX rotateRight := by intro w p v; simp [rotateRight]
theorem testAndSet_leavesX (a : Word) : UnaryLeavesX (fun w p v => testAndSet w a p v) := by intro w p v; simp [testAndSet]
theorem testAndReset_leavesX (a : Word) : UnaryLeavesX (fun w p v => testAndReset w a p v) := by
  intro w p v; simp [testAndReset]

variable (base : Nat) (mods : List Modifier) (s : State)

theorem loadA_tame (o : Operand) : Tame s (loadA o base mods s) :=
  .of_bus (o.read_grows s _) (by simp [loadA]) rfl rfl

theorem loadX_tame (o : Operand) : Tame s (loadX o base mods s) :=
  ⟨o.read_grows s _, fun h => State.indexWidthInv_of_eq (s := s.setX (o.read s s.wX).value) (by simp [loadX]) rfl rfl
    (State.setX_indexWidthInv _ h)⟩

theorem loadY_tame (o : Operand) : Tame s (loadY o base mods s) :=
  ⟨o.read_grows s _, fun h => State.indexWidthInv_of_eq (s := s.setY (o.read s s.wX).value) (by simp [loadY]) rfl rfl
    (State.setY_indexWidthInv _ h)⟩

theorem storeAt_tame (mode : AddrMode) (w : Width) (v : Word) : Tame s (storeAt mode w v base mods s) :=
  .of_bus ((mode.resolve_grows s).trans (Bus.writeAt_grows _ _ _ _)) rfl rfl rfl

theorem storeA_tame (mode : AddrMode) : Tame s (storeA mode base mods s) := storeAt_tame _ _ _ _ _ _
theorem storeX_tame (mode : AddrMode) : Tame s (storeX mode base mods s) := storeAt_tame _ _ _ _ _ _
theorem storeY_tame (mode : AddrMode) : Tame s (storeY mode base mods s) := storeAt_tame _ _ _ _ _ _
theorem storeZero_tame (mode : AddrMode) : Tame s (storeZero mode base mods s) := storeAt_tame _ _ _ _ _ _

theorem transferToA_tame (v : Word) : Tame s (transferToA v base mods s) := .of_bus (.refl _) (by simp [transferToA]) rfl rfl

theorem transferToX_tame (v : Word) : Tame s (transferToX v base mods s) :=
  ⟨.refl _, fun h => State.indexWidthInv_of_eq (s := s.setX v) (by simp [transferToX]) rfl rfl (State.setX_indexWidthInv _ h)⟩

theorem transferToY_tame (v : Word) : Tame s (transferToY v base mods s) :=
  ⟨.refl _, fun h => State.indexWidthInv_of_eq (s := s.setY v) (by simp [transferToY]) rfl rfl (State.setY_indexWidthInv _ h)⟩

theorem transferToWholeA_tame (v : Word) : Tame s (transferToWholeA v base mods s) :=
  .of_bus (.refl _) (by simp [transferToWholeA]) rfl rfl

theorem transferToD_tame (v : Word) : Tame s (transferToD v base mods s) :=
  .of_bus (.refl _) (by simp [transferToD]) rfl rfl

theorem transferToStack_tame (v : Word) : Tame s (transferToStack v base mods s) := .of_bus (.refl _) rfl rfl rfl

theorem exchangeA_tame : Tame s (exchangeA base mods s) := .of_bus (.refl _) (by simp [exchangeA]) rfl rfl

theorem blockMove_tame (dst src : Byte) (delta : Word) : Tame s (blockMove dst src delta base mods s) :=
  ⟨(Bus.read_grows _ _).trans (Bus.write_grows _ _ _), fun h =>
    State.indexWidthInv_of_eq (s := (s.setX (s.getX + delta)).setY (s.getY + delta)) rfl rfl rfl
      (State.setY_indexWidthInv _ (State.setX_indexWidthInv _ h))⟩

theorem binaryA_tame {f : BinaryOp} (hf : LeavesX f) (o : Operand) : Tame s (binaryA f o base mods s) :=
  .of_bus (o.read_grows s _) (hf _ _ _ _) rfl rfl

theorem compareWith_tame (w : Width) (v : Word) (o : Operand) : Tame s (compareWith w v o base mods s) :=
  .of_bus (o.read_grows s _) (by simp [compareWith, compareFlags]) rfl rfl

theorem compareA_tame (o : Operand) : Tame s (compareA o base mods s) := compareWith_tame _ _ _ _ _ _
theorem compareX_tame (o : Operand) : Tame s (compareX o base mods s) := compareWith_tame _ _ _ _ _ _
theorem compareY_tame (o : Operand) : Tame s (compareY o base mods s) := compareWith_tame _ _ _ _ _ _

theorem testA_tame (o : Operand) : Tame s (testA o base mods s) :=
  .of_bus (o.read_grows s _) (by simp only [testA, bitTest, State.addCycles_p, State.withP_p]; split <;> simp) rfl rfl

theorem modifyMemory_tame {f : UnaryOp} (hf : UnaryLeavesX f) (mode : AddrMode) : Tame s (modifyMemory f mode base mods s) :=
  .of_bus (((mode.resolve_grows s).trans (Bus.readAt_grows _ _ _)).trans (Bus.writeAt_grows _ _ _ _)) (hf _ _ _) rfl rfl

theorem modifyA_tame {f : UnaryOp} (hf : UnaryLeavesX f) : Tame s (modifyA f base mods s) :=
  .of_bus (.refl _) (hf _ _ _) rfl rfl

theorem stepX_tame (delta : Word) : Tame s (stepX delta base mods s) :=
  ⟨.refl _, fun h => State.indexWidthInv_of_eq (s := s.setX (s.getX + delta)) (by simp [stepX]) rfl rfl
    (State.setX_indexWidthInv _ h)⟩

theorem stepY_tame (delta : Word) : Tame s (stepY delta base mods s) :=
  ⟨.refl _, fun h => State.indexWidthInv_of_eq (s := s.setY (s.getY + delta)) (by simp [stepY]) rfl rfl
    (State.setY_indexWidthInv _ h)⟩

theorem branchIf_tame (cond : Bool) (off : Byte) : Tame s (branchIf cond off base mods s) := .of_bus (.refl _) rfl rfl rfl

theorem jumpTo_tame (target : Word) : Tame s (jumpTo target base mods s) := .of_bus (.refl _) rfl rfl rfl

theorem jumpThrough_tame {target : Word × Bus} (h : s.bus.Grows target.2) : Tame s (jumpThrough target base mods s) :=
  .of_bus h rfl rfl rfl

theorem jumpLongThrough_tame {target : Addr × Bus} (h : s.bus.Grows target.2) :
    Tame s (jumpLongThrough target base mods s) :=
  .of_bus h rfl rfl rfl

theorem callTo_tame (target : Word) : Tame s (callTo target base mods s) := .of_bus (s.push16_grows _) rfl rfl rfl

theorem callThrough_tame (addr : Word) : Tame s (callThrough addr base mods s) :=
  .of_bus ((s.push16_grows _).trans (Bus.readBank2_grows _ _ _)) rfl rfl rfl

theorem callLong_tame (target : Addr) : Tame s (callLong target base mods s) :=
  .of_bus ((s.push8_grows _).trans (State.push16_grows _ _)) rfl rfl rfl

theorem returnNear_tame : Tame s (returnNear base mods s) := .of_bus s.pop16_grows rfl rfl rfl

theorem returnLong_tame : Tame s (returnLong base mods s) := .of_bus (s.pop16_grows.trans (State.pop8_grows _)) rfl rfl rfl

theorem softInterrupt_tame (kind : Interrupt) (hk : kind ≠ .nmi) : Tame s (softInterrupt kind base mods s) := by
  obtain ⟨lo, hi, -, -, h⟩ := s.enterInterrupt_eq kind
  rw [if_neg hk] at h
  exact .of_bus (by rw [softInterrupt, h]; exact s.pushFrame_grows) (by rw [softInterrupt, h]; simp)
    (by rw [softInterrupt, h]; rfl) (by rw [softInterrupt, h]; rfl)

theorem returnInterrupt_tame : Tame s (returnInterrupt base mods s) :=
  ⟨(s.pop8_grows.trans (State.pop16_grows (s.pop8.2.setP s.pop8.1))).trans (State.pop8_grows _), fun _ =>
    State.indexWidthInv_of_eq (s := s.pop8.2.setP s.pop8.1) rfl rfl rfl (State.setP_indexWidthInv _ _)⟩

theorem pushReg_tame (w : Width) (v : Word) : Tame s (pushReg w v base mods s) := by
  cases w
  · exact .of_bus (s.push8_grows _) rfl rfl rfl
  · exact .of_bus (s.push16_grows _) rfl rfl rfl

theorem pushByte_tame (v : Byte) : Tame s (pushByte v base mods s) := .of_bus (s.push8_grows _) rfl rfl rfl

theorem pushWord_tame (v : Word) : Tame s (pushWord v base mods s) := .of_bus (s.push16_grows _) rfl rfl rfl

theorem pushPointer_tame (off : Byte) : Tame s (pushPointer off base mods s) :=
  .of_bus ((Bus.readBank2_grows s.bus _ _).trans
    (State.push16_grows (s.withBus (s.bus.readBank2 0x00 (s.direct off)).2) _)) rfl rfl rfl

theorem pullA_tame : Tame s (pullA base mods s) := by
  obtain ⟨sp, bus, h⟩ := s.popAt_keeps s.wM
  exact .of_bus (s.popAt_grows _) (by simp [pullA, h]) (by simp [pullA, h]) (by simp [pullA, h])

theorem pullX_tame : Tame s (pullX base mods s) := by
  obtain ⟨sp, bus, h⟩ := s.popAt_keeps s.wX
  refine ⟨s.popAt_grows _, fun hi => State.indexWidthInv_of_eq (s := (s.popAt s.wX).2.setX (s.popAt s.wX).1) ?_ rfl rfl ?_⟩
  · simp [pullX]
  · exact State.setX_indexWidthInv _ (by rw [h]; exact hi)

theorem pullY_tame : Tame s (pullY base mods s) := by
  obtain ⟨sp, bus, h⟩ := s.popAt_keeps s.wX
  refine ⟨s.popAt_grows _, fun hi => State.indexWidthInv_of_eq (s := (s.popAt s.wX).2.setY (s.popAt s.wX).1) ?_ rfl rfl ?_⟩
  · simp [pullY]
  · exact State.setY_indexWidthInv _ (by rw [h]; exact hi)

theorem pullP_tame : Tame s (pullP base mods s) :=
  ⟨s.pop8_grows, fun _ => State.indexWidthInv_of_eq (s := s.pop8.2.setP s.pop8.1) rfl rfl rfl (State.setP_indexWidthInv _ _)⟩

theorem pullB_tame : Tame s (pullB base mods s) := .of_bus s.pop8_grows (by simp [pullB]) rfl rfl

theorem pullD_tame : Tame s (pullD base mods s) := .of_bus s.pop16_grows (by simp [pullD]) rfl rfl

theorem writeFlag_tame {f : Flag} (hf : f ≠ .x) (value : Bool) : Tame s (writeFlag f value base mods s) :=
  .of_bus (.refl _) (flag_setFlag_other _ _ (Ne.symm hf)) rfl rfl

theorem writeStatus_tame (v : Byte) : Tame s (writeStatus v base mods s) :=
  ⟨.refl _, fun _ => State.indexWidthInv_of_eq (s := s.setP v) rfl rfl rfl (State.setP_indexWidthInv _ _)⟩

theorem exchangeCE_tame : Tame s (exchangeCE base mods s) := by
  unfold exchangeCE
  split
  · exact ⟨.refl _, fun _ _ => ⟨by simp [State.enterEmulation], by simp [State.enterEmulation]⟩⟩
  · exact .of_bus (.refl _) (by simp) rfl rfl

theorem doNothing_tame : Tame s (doNothing base mods s) := .of_bus (.refl _) rfl rfl rfl
theorem beginWaiting_tame : Tame s (beginWaiting base mods s) := .of_bus (.refl _) rfl rfl rfl
theorem stopProcessor_tame : Tame s (stopProcessor base mods s) := .of_bus (.refl _) rfl rfl rfl

end Sys2Proof.Machine
end

