-- ==== Sys2Proof/Laws/Exec.lean ====
section
/-! SUPPORT. What every instruction may do: from the law of its shared operation. -/

namespace Sys2Proof.Machine

/-- Every instruction's next state is Tame (Laws/Meanings.lean). -/
theorem exec_tame {i : Instr} {s t : State} (h : exec i s = .next t) : Tame s t := by
  cases i
  case brk => cases h; exact softInterrupt_tame _ _ s _ (by decide)
  case oraDpIndX => cases h; exact binaryA_tame _ _ s bitOr_leavesX _
  case cop => cases h; exact softInterrupt_tame _ _ s _ (by decide)
  case oraSr => cases h; exact binaryA_tame _ _ s bitOr_leavesX _
  case tsbDp => cases h; exact modifyMemory_tame _ _ s (testAndSet_leavesX _) _
  case oraDp => cases h; exact binaryA_tame _ _ s bitOr_leavesX _
  case aslDp => cases h; exact modifyMemory_tame _ _ s shiftLeft_leavesX _
  case oraDpIndL => cases h; exact binaryA_tame _ _ s bitOr_leavesX _
  case php => cases h; exact pushByte_tame _ _ s _
  case oraImm => cases h; exact binaryA_tame _ _ s bitOr_leavesX _
  case aslAcc => cases h; exact modifyA_tame _ _ s shiftLeft_leavesX
  case phd => cases h; exact pushWord_tame _ _ s _
  case tsbAbs => cases h; exact modifyMemory_tame _ _ s (testAndSet_leavesX _) _
  case oraAbs => cases h; exact binaryA_tame _ _ s bitOr_leavesX _
  case aslAbs => cases h; exact modifyMemory_tame _ _ s shiftLeft_leavesX _
  case oraLong => cases h; exact binaryA_tame _ _ s bitOr_leavesX _
  case bpl => cases h; exact branchIf_tame _ _ s _ _
  case oraDpIndY => cases h; exact binaryA_tame _ _ s bitOr_leavesX _
  case oraDpInd => cases h; exact binaryA_tame _ _ s bitOr_leavesX _
  case oraSrIndY => cases h; exact binaryA_tame _ _ s bitOr_leavesX _
  case trbDp => cases h; exact modifyMemory_tame _ _ s (testAndReset_leavesX _) _
  case oraDpX => cases h; exact binaryA_tame _ _ s bitOr_leavesX _
  case aslDpX => cases h; exact modifyMemory_tame _ _ s shiftLeft_leavesX _
  case oraDpIndLY => cases h; exact binaryA_tame _ _ s bitOr_leavesX _
  case clc => cases h; exact writeFlag_tame _ _ s (by decide) _
  case oraAbsY => cases h; exact binaryA_tame _ _ s bitOr_leavesX _
  case incAcc => cases h; exact modifyA_tame _ _ s increment_leavesX
  case tcs => cases h; exact transferToStack_tame _ _ s _
  case trbAbs => cases h; exact modifyMemory_tame _ _ s (testAndReset_leavesX _) _
  case oraAbsX => cases h; exact binaryA_tame _ _ s bitOr_leavesX _
  case aslAbsX => cases h; exact modifyMemory_tame _ _ s shiftLeft_leavesX _
  case oraLongX => cases h; exact binaryA_tame _ _ s bitOr_leavesX _
  case jsrAbs => cases h; exact callTo_tame _ _ s _
  case andDpIndX => cases h; exact binaryA_tame _ _ s bitAnd_leavesX _
  case jsl => cases h; exact callLong_tame _ _ s _
  case andSr => cases h; exact binaryA_tame _ _ s bitAnd_leavesX _
  case bitDp => cases h; exact testA_tame _ _ s _
  case andDp => cases h; exact binaryA_tame _ _ s bitAnd_leavesX _
  case rolDp => cases h; exact modifyMemory_tame _ _ s rotateLeft_leavesX _
  case andDpIndL => cases h; exact binaryA_tame _ _ s bitAnd_leavesX _
  case plp => cases h; exact pullP_tame _ _ s
  case andImm => cases h; exact binaryA_tame _ _ s bitAnd_leavesX _
  case rolAcc => cases h; exact modifyA_tame _ _ s rotateLeft_leavesX
  case pld => cases h; exact pullD_tame _ _ s
  case bitAbs => cases h; exact testA_tame _ _ s _
  case andAbs => cases h; exact binaryA_tame _ _ s bitAnd_leavesX _
  case rolAbs => cases h; exact modifyMemory_tame _ _ s rotateLeft_leavesX _
  case andLong => cases h; exact binaryA_tame _ _ s bitAnd_leavesX _
  case bmi => cases h; exact branchIf_tame _ _ s _ _
  case andDpIndY => cases h; exact binaryA_tame _ _ s bitAnd_leavesX _
  case andDpInd => cases h; exact binaryA_tame _ _ s bitAnd_leavesX _
  case andSrIndY => cases h; exact binaryA_tame _ _ s bitAnd_leavesX _
  case bitDpX => cases h; exact testA_tame _ _ s _
  case andDpX => cases h; exact binaryA_tame _ _ s bitAnd_leavesX _
  case rolDpX => cases h; exact modifyMemory_tame _ _ s rotateLeft_leavesX _
  case andDpIndLY => cases h; exact binaryA_tame _ _ s bitAnd_leavesX _
  case sec => cases h; exact writeFlag_tame _ _ s (by decide) _
  case andAbsY => cases h; exact binaryA_tame _ _ s bitAnd_leavesX _
  case decAcc => cases h; exact modifyA_tame _ _ s decrement_leavesX
  case tsc => cases h; exact transferToWholeA_tame _ _ s _
  case bitAbsX => cases h; exact testA_tame _ _ s _
  case andAbsX => cases h; exact binaryA_tame _ _ s bitAnd_leavesX _
  case rolAbsX => cases h; exact modifyMemory_tame _ _ s rotateLeft_leavesX _
  case andLongX => cases h; exact binaryA_tame _ _ s bitAnd_leavesX _
  case rti => cases h; exact returnInterrupt_tame _ _ s
  case eorDpIndX => cases h; exact binaryA_tame _ _ s bitXor_leavesX _
  case wdm => cases h; exact doNothing_tame _ _ s
  case eorSr => cases h; exact binaryA_tame _ _ s bitXor_leavesX _
  case mvp => cases h; exact blockMove_tame _ _ s _ _ _
  case eorDp => cases h; exact binaryA_tame _ _ s bitXor_leavesX _
  case lsrDp => cases h; exact modifyMemory_tame _ _ s shiftRight_leavesX _
  case eorDpIndL => cases h; exact binaryA_tame _ _ s bitXor_leavesX _
  case pha => cases h; exact pushReg_tame _ _ s _ _
  case eorImm => cases h; exact binaryA_tame _ _ s bitXor_leavesX _
  case lsrAcc => cases h; exact modifyA_tame _ _ s shiftRight_leavesX
  case phk => cases h; exact pushByte_tame _ _ s _
  case jmpAbs => cases h; exact jumpTo_tame _ _ s _
  case eorAbs => cases h; exact binaryA_tame _ _ s bitXor_leavesX _
  case lsrAbs => cases h; exact modifyMemory_tame _ _ s shiftRight_leavesX _
  case eorLong => cases h; exact binaryA_tame _ _ s bitXor_leavesX _
  case bvc => cases h; exact branchIf_tame _ _ s _ _
  case eorDpIndY => cases h; exact binaryA_tame _ _ s bitXor_leavesX _
  case eorDpInd => cases h; exact binaryA_tame _ _ s bitXor_leavesX _
  case eorSrIndY => cases h; exact binaryA_tame _ _ s bitXor_leavesX _
  case mvn => cases h; exact blockMove_tame _ _ s _ _ _
  case eorDpX => cases h; exact binaryA_tame _ _ s bitXor_leavesX _
  case lsrDpX => cases h; exact modifyMemory_tame _ _ s shiftRight_leavesX _
  case eorDpIndLY => cases h; exact binaryA_tame _ _ s bitXor_leavesX _
  case cli => cases h; exact writeFlag_tame _ _ s (by decide) _
  case eorAbsY => cases h; exact binaryA_tame _ _ s bitXor_leavesX _
  case phy => cases h; exact pushReg_tame _ _ s _ _
  case tcd => cases h; exact transferToD_tame _ _ s _
  case jmlLong => cases h; exact jumpLongThrough_tame _ _ s (.refl _)
  case eorAbsX => cases h; exact binaryA_tame _ _ s bitXor_leavesX _
  case lsrAbsX => cases h; exact modifyMemory_tame _ _ s shiftRight_leavesX _
  case eorLongX => cases h; exact binaryA_tame _ _ s bitXor_leavesX _
  case rts => cases h; exact returnNear_tame _ _ s
  case adcDpIndX => cases h; exact binaryA_tame _ _ s addWithCarry_leavesX _
  case per => cases h; exact pushWord_tame _ _ s _
  case adcSr => cases h; exact binaryA_tame _ _ s addWithCarry_leavesX _
  case stzDp => cases h; exact storeZero_tame _ _ s _
  case adcDp => cases h; exact binaryA_tame _ _ s addWithCarry_leavesX _
  case rorDp => cases h; exact modifyMemory_tame _ _ s rotateRight_leavesX _
  case adcDpIndL => cases h; exact binaryA_tame _ _ s addWithCarry_leavesX _
  case pla => cases h; exact pullA_tame _ _ s
  case adcImm => cases h; exact binaryA_tame _ _ s addWithCarry_leavesX _
  case rorAcc => cases h; exact modifyA_tame _ _ s rotateRight_leavesX
  case rtl => cases h; exact returnLong_tame _ _ s
  case jmpInd => cases h; exact jumpThrough_tame _ _ s (Bus.readBank2_grows _ _ _)
  case adcAbs => cases h; exact binaryA_tame _ _ s addWithCarry_leavesX _
  case rorAbs => cases h; exact modifyMemory_tame _ _ s rotateRight_leavesX _
  case adcLong => cases h; exact binaryA_tame _ _ s addWithCarry_leavesX _
  case bvs => cases h; exact branchIf_tame _ _ s _ _
  case adcDpIndY => cases h; exact binaryA_tame _ _ s addWithCarry_leavesX _
  case adcDpInd => cases h; exact binaryA_tame _ _ s addWithCarry_leavesX _
  case adcSrIndY => cases h; exact binaryA_tame _ _ s addWithCarry_leavesX _
  case stzDpX => cases h; exact storeZero_tame _ _ s _
  case adcDpX => cases h; exact binaryA_tame _ _ s addWithCarry_leavesX _
  case rorDpX => cases h; exact modifyMemory_tame _ _ s rotateRight_leavesX _
  case adcDpIndLY => cases h; exact binaryA_tame _ _ s addWithCarry_leavesX _
  case sei => cases h; exact writeFlag_tame _ _ s (by decide) _
  case adcAbsY => cases h; exact binaryA_tame _ _ s addWithCarry_leavesX _
  case ply => cases h; exact pullY_tame _ _ s
  case tdc => cases h; exact transferToWholeA_tame _ _ s _
  case jmpIndX => cases h; exact jumpThrough_tame _ _ s (Bus.readBank2_grows _ _ _)
  case adcAbsX => cases h; exact binaryA_tame _ _ s addWithCarry_leavesX _
  case rorAbsX => cases h; exact modifyMemory_tame _ _ s rotateRight_leavesX _
  case adcLongX => cases h; exact binaryA_tame _ _ s addWithCarry_leavesX _
  case bra => cases h; exact branchIf_tame _ _ s _ _
  case staDpIndX => cases h; exact storeA_tame _ _ s _
  case brl => cases h; exact jumpTo_tame _ _ s _
  case staSr => cases h; exact storeA_tame _ _ s _
  case styDp => cases h; exact storeY_tame _ _ s _
  case staDp => cases h; exact storeA_tame _ _ s _
  case stxDp => cases h; exact storeX_tame _ _ s _
  case staDpIndL => cases h; exact storeA_tame _ _ s _
  case dey => cases h; exact stepY_tame _ _ s _
  case bitImm => cases h; exact testA_tame _ _ s _
  case txa => cases h; exact transferToA_tame _ _ s _
  case phb => cases h; exact pushByte_tame _ _ s _
  case styAbs => cases h; exact storeY_tame _ _ s _
  case staAbs => cases h; exact storeA_tame _ _ s _
  case stxAbs => cases h; exact storeX_tame _ _ s _
  case staLong => cases h; exact storeA_tame _ _ s _
  case bcc => cases h; exact branchIf_tame _ _ s _ _
  case staDpIndY => cases h; exact storeA_tame _ _ s _
  case staDpInd => cases h; exact storeA_tame _ _ s _
  case staSrIndY => cases h; exact storeA_tame _ _ s _
  case styDpX => cases h; exact storeY_tame _ _ s _
  case staDpX => cases h; exact storeA_tame _ _ s _
  case stxDpY => cases h; exact storeX_tame _ _ s _
  case staDpIndLY => cases h; exact storeA_tame _ _ s _
  case tya => cases h; exact transferToA_tame _ _ s _
  case staAbsY => cases h; exact storeA_tame _ _ s _
  case txs => cases h; exact transferToStack_tame _ _ s _
  case txy => cases h; exact transferToY_tame _ _ s _
  case stzAbs => cases h; exact storeZero_tame _ _ s _
  case staAbsX => cases h; exact storeA_tame _ _ s _
  case stzAbsX => cases h; exact storeZero_tame _ _ s _
  case staLongX => cases h; exact storeA_tame _ _ s _
  case ldyImm => cases h; exact loadY_tame _ _ s _
  case ldaDpIndX => cases h; exact loadA_tame _ _ s _
  case ldxImm => cases h; exact loadX_tame _ _ s _
  case ldaSr => cases h; exact loadA_tame _ _ s _
  case ldyDp => cases h; exact loadY_tame _ _ s _
  case ldaDp => cases h; exact loadA_tame _ _ s _
  case ldxDp => cases h; exact loadX_tame _ _ s _
  case ldaDpIndL => cases h; exact loadA_tame _ _ s _
  case tay => cases h; exact transferToY_tame _ _ s _
  case ldaImm => cases h; exact loadA_tame _ _ s _
  case tax => cases h; exact transferToX_tame _ _ s _
  case plb => cases h; exact pullB_tame _ _ s
  case ldyAbs => cases h; exact loadY_tame _ _ s _
  case ldaAbs => cases h; exact loadA_tame _ _ s _
  case ldxAbs => cases h; exact loadX_tame _ _ s _
  case ldaLong => cases h; exact loadA_tame _ _ s _
  case bcs => cases h; exact branchIf_tame _ _ s _ _
  case ldaDpIndY => cases h; exact loadA_tame _ _ s _
  case ldaDpInd => cases h; exact loadA_tame _ _ s _
  case ldaSrIndY => cases h; exact loadA_tame _ _ s _
  case ldyDpX => cases h; exact loadY_tame _ _ s _
  case ldaDpX => cases h; exact loadA_tame _ _ s _
  case ldxDpY => cases h; exact loadX_tame _ _ s _
  case ldaDpIndLY => cases h; exact loadA_tame _ _ s _
  case clv => cases h; exact writeFlag_tame _ _ s (by decide) _
  case ldaAbsY => cases h; exact loadA_tame _ _ s _
  case tsx => cases h; exact transferToX_tame _ _ s _
  case tyx => cases h; exact transferToX_tame _ _ s _
  case ldyAbsX => cases h; exact loadY_tame _ _ s _
  case ldaAbsX => cases h; exact loadA_tame _ _ s _
  case ldxAbsY => cases h; exact loadX_tame _ _ s _
  case ldaLongX => cases h; exact loadA_tame _ _ s _
  case cpyImm => cases h; exact compareY_tame _ _ s _
  case cmpDpIndX => cases h; exact compareA_tame _ _ s _
  case rep => cases h; exact writeStatus_tame _ _ s _
  case cmpSr => cases h; exact compareA_tame _ _ s _
  case cpyDp => cases h; exact compareY_tame _ _ s _
  case cmpDp => cases h; exact compareA_tame _ _ s _
  case decDp => cases h; exact modifyMemory_tame _ _ s decrement_leavesX _
  case cmpDpIndL => cases h; exact compareA_tame _ _ s _
  case iny => cases h; exact stepY_tame _ _ s _
  case cmpImm => cases h; exact compareA_tame _ _ s _
  case dex => cases h; exact stepX_tame _ _ s _
  case wai => cases h; exact beginWaiting_tame _ _ s
  case cpyAbs => cases h; exact compareY_tame _ _ s _
  case cmpAbs => cases h; exact compareA_tame _ _ s _
  case decAbs => cases h; exact modifyMemory_tame _ _ s decrement_leavesX _
  case cmpLong => cases h; exact compareA_tame _ _ s _
  case bne => cases h; exact branchIf_tame _ _ s _ _
  case cmpDpIndY => cases h; exact compareA_tame _ _ s _
  case cmpDpInd => cases h; exact compareA_tame _ _ s _
  case cmpSrIndY => cases h; exact compareA_tame _ _ s _
  case pei => cases h; exact pushPointer_tame _ _ s _
  case cmpDpX => cases h; exact compareA_tame _ _ s _
  case decDpX => cases h; exact modifyMemory_tame _ _ s decrement_leavesX _
  case cmpDpIndLY => cases h; exact compareA_tame _ _ s _
  case cld => cases h; exact writeFlag_tame _ _ s (by decide) _
  case cmpAbsY => cases h; exact compareA_tame _ _ s _
  case phx => cases h; exact pushReg_tame _ _ s _ _
  case stp => cases h; exact stopProcessor_tame _ _ s
  case jmlInd => cases h; exact jumpLongThrough_tame _ _ s (Bus.readBank3_grows _ _ _)
  case cmpAbsX => cases h; exact compareA_tame _ _ s _
  case decAbsX => cases h; exact modifyMemory_tame _ _ s decrement_leavesX _
  case cmpLongX => cases h; exact compareA_tame _ _ s _
  case cpxImm => cases h; exact compareX_tame _ _ s _
  case sbcDpIndX => cases h; exact binaryA_tame _ _ s subWithBorrow_leavesX _
  case sep => cases h; exact writeStatus_tame _ _ s _
  case sbcSr => cases h; exact binaryA_tame _ _ s subWithBorrow_leavesX _
  case cpxDp => cases h; exact compareX_tame _ _ s _
  case sbcDp => cases h; exact binaryA_tame _ _ s subWithBorrow_leavesX _
  case incDp => cases h; exact modifyMemory_tame _ _ s increment_leavesX _
  case sbcDpIndL => cases h; exact binaryA_tame _ _ s subWithBorrow_leavesX _
  case inx => cases h; exact stepX_tame _ _ s _
  case sbcImm => cases h; exact binaryA_tame _ _ s subWithBorrow_leavesX _
  case nop => cases h; exact doNothing_tame _ _ s
  case xba => cases h; exact exchangeA_tame _ _ s
  case cpxAbs => cases h; exact compareX_tame _ _ s _
  case sbcAbs => cases h; exact binaryA_tame _ _ s subWithBorrow_leavesX _
  case incAbs => cases h; exact modifyMemory_tame _ _ s increment_leavesX _
  case sbcLong => cases h; exact binaryA_tame _ _ s subWithBorrow_leavesX _
  case beq => cases h; exact branchIf_tame _ _ s _ _
  case sbcDpIndY => cases h; exact binaryA_tame _ _ s subWithBorrow_leavesX _
  case sbcDpInd => cases h; exact binaryA_tame _ _ s subWithBorrow_leavesX _
  case sbcSrIndY => cases h; exact binaryA_tame _ _ s subWithBorrow_leavesX _
  case pea => cases h; exact pushWord_tame _ _ s _
  case sbcDpX => cases h; exact binaryA_tame _ _ s subWithBorrow_leavesX _
  case incDpX => cases h; exact modifyMemory_tame _ _ s increment_leavesX _
  case sbcDpIndLY => cases h; exact binaryA_tame _ _ s subWithBorrow_leavesX _
  case sed => cases h; exact writeFlag_tame _ _ s (by decide) _
  case sbcAbsY => cases h; exact binaryA_tame _ _ s subWithBorrow_leavesX _
  case plx => cases h; exact pullX_tame _ _ s
  case xce => cases h; exact exchangeCE_tame _ _ s
  case jsrIndX => cases h; exact callThrough_tame _ _ s _
  case sbcAbsX => cases h; exact binaryA_tame _ _ s subWithBorrow_leavesX _
  case incAbsX => cases h; exact modifyMemory_tame _ _ s increment_leavesX _
  case sbcLongX => cases h; exact binaryA_tame _ _ s subWithBorrow_leavesX _

end Sys2Proof.Machine
end

