-- ==== Sys2Proof/Laws/Keeps.lean ====
section
/-! SUPPORT. What every shared operation of the meanings leaves: the registers and the flags outside those its rule
names. -/

namespace Sys2Proof.Machine

/-- A frame with room to spare is a frame. -/
theorem Keeps.mono {rs rs' : List Reg} {fs fs' : List Flag} {s t : State} (hr : ∀ r ∈ rs, r ∈ rs') (hf : ∀ f ∈ fs, f ∈ fs')
    (h : Keeps rs fs s t) : Keeps rs' fs' s t :=
  ⟨fun r hn => h.1 r fun hm => hn (hr r hm), fun f hn => h.2 f fun hm => hn (hf f hm)⟩

/-- A flag computation that leaves the flags outside fs. -/
def KeepsFlags (fs : List Flag) (f : BinaryOp) : Prop := ∀ w p a m g, g ∉ fs → flag (f w p a m).p g = flag p g

/-- A flag computation over one value that leaves the flags outside fs. -/
def UnaryKeepsFlags (fs : List Flag) (f : UnaryOp) : Prop := ∀ w p v g, g ∉ fs → flag (f w p v).p g = flag p g

theorem addWithCarry_keepsFlags : KeepsFlags [.c, .z, .v, .n] addWithCarry := by
  intro w p a m g hg
  cases g <;> simp [addWithCarry] at hg ⊢

theorem bitAnd_keepsFlags : KeepsFlags [.z, .n] bitAnd := by
  intro w p a m g hg
  cases g <;> simp [bitAnd] at hg ⊢

theorem bitOr_keepsFlags : KeepsFlags [.z, .n] bitOr := by
  intro w p a m g hg
  cases g <;> simp [bitOr] at hg ⊢

theorem bitXor_keepsFlags : KeepsFlags [.z, .n] bitXor := by
  intro w p a m g hg
  cases g <;> simp [bitXor] at hg ⊢

theorem subWithBorrow_keepsFlags : KeepsFlags [.c, .z, .v, .n] subWithBorrow :=
  fun w p a _ g hg => addWithCarry_keepsFlags w p a _ g hg

theorem increment_keepsFlags : UnaryKeepsFlags [.z, .n] increment := by
  intro w p v g hg
  cases g <;> simp [increment] at hg ⊢

theorem decrement_keepsFlags : UnaryKeepsFlags [.z, .n] decrement := by
  intro w p v g hg
  cases g <;> simp [decrement] at hg ⊢

theorem shiftLeft_keepsFlags : UnaryKeepsFlags [.c, .z, .n] shiftLeft := by
  intro w p v g hg
  cases g <;> simp [shiftLeft] at hg ⊢

theorem shiftRight_keepsFlags : UnaryKeepsFlags [.c, .z, .n] shiftRight := by
  intro w p v g hg
  cases g <;> simp [shiftRight] at hg ⊢

theorem rotateLeft_keepsFlags : UnaryKeepsFlags [.c, .z, .n] rotateLeft := by
  intro w p v g hg
  cases g <;> simp [rotateLeft] at hg ⊢

theorem rotateRight_keepsFlags : UnaryKeepsFlags [.c, .z, .n] rotateRight := by
  intro w p v g hg
  cases g <;> simp [rotateRight] at hg ⊢

theorem testAndSet_keepsFlags (a : Word) : UnaryKeepsFlags [.z] (fun w p v => testAndSet w a p v) := by
  intro w p v g hg
  cases g <;> simp [testAndSet] at hg ⊢

theorem testAndReset_keepsFlags (a : Word) : UnaryKeepsFlags [.z] (fun w p v => testAndReset w a p v) := by
  intro w p v g hg
  cases g <;> simp [testAndReset] at hg ⊢

variable (base : Nat) (mods : List Modifier) (s : State)

theorem loadA_keeps (o : Operand) :
    Keeps [.a] [.z, .n] s (loadA o base mods s) :=
  ⟨by
    intro r hr
    cases r <;> first
      | rfl
      | exact absurd (List.mem_of_elem_eq_true rfl) hr, by
    intro f hf
    cases f <;> simp [loadA] at hf ⊢⟩

theorem loadX_keeps (o : Operand) :
    Keeps [.x] [.z, .n] s (loadX o base mods s) :=
  ⟨by
    intro r hr
    cases r <;> first
      | rfl
      | exact absurd (List.mem_of_elem_eq_true rfl) hr, by
    intro f hf
    cases f <;> simp [loadX] at hf ⊢⟩

theorem loadY_keeps (o : Operand) :
    Keeps [.y] [.z, .n] s (loadY o base mods s) :=
  ⟨by
    intro r hr
    cases r <;> first
      | rfl
      | exact absurd (List.mem_of_elem_eq_true rfl) hr, by
    intro f hf
    cases f <;> simp [loadY] at hf ⊢⟩

theorem storeAt_keeps (mode : AddrMode) (w : Width) (v : Word) :
    Keeps [] [] s (storeAt mode w v base mods s) :=
  ⟨by intro r _; cases r <;> rfl, fun _ _ => rfl⟩

theorem transferToA_keeps (v : Word) :
    Keeps [.a] [.z, .n] s (transferToA v base mods s) :=
  ⟨by
    intro r hr
    cases r <;> first
      | rfl
      | exact absurd (List.mem_of_elem_eq_true rfl) hr, by
    intro f hf
    cases f <;> simp [transferToA] at hf ⊢⟩

theorem transferToX_keeps (v : Word) :
    Keeps [.x] [.z, .n] s (transferToX v base mods s) :=
  ⟨by
    intro r hr
    cases r <;> first
      | rfl
      | exact absurd (List.mem_of_elem_eq_true rfl) hr, by
    intro f hf
    cases f <;> simp [transferToX] at hf ⊢⟩

theorem transferToY_keeps (v : Word) :
    Keeps [.y] [.z, .n] s (transferToY v base mods s) :=
  ⟨by
    intro r hr
    cases r <;> first
      | rfl
      | exact absurd (List.mem_of_elem_eq_true rfl) hr, by
    intro f hf
    cases f <;> simp [transferToY] at hf ⊢⟩

theorem transferToWholeA_keeps (v : Word) :
    Keeps [.a] [.z, .n] s (transferToWholeA v base mods s) :=
  ⟨by
    intro r hr
    cases r <;> first
      | rfl
      | exact absurd (List.mem_of_elem_eq_true rfl) hr, by
    intro f hf
    cases f <;> simp [transferToWholeA] at hf ⊢⟩

theorem transferToD_keeps (v : Word) :
    Keeps [.d] [.z, .n] s (transferToD v base mods s) :=
  ⟨by
    intro r hr
    cases r <;> first
      | rfl
      | exact absurd (List.mem_of_elem_eq_true rfl) hr, by
    intro f hf
    cases f <;> simp [transferToD] at hf ⊢⟩

theorem transferToStack_keeps (v : Word) :
    Keeps [.sp] [] s (transferToStack v base mods s) :=
  ⟨by
    intro r hr
    cases r <;> first
      | rfl
      | exact absurd (List.mem_of_elem_eq_true rfl) hr, fun _ _ => rfl⟩

theorem exchangeA_keeps :
    Keeps [.a] [.z, .n] s (exchangeA base mods s) :=
  ⟨by
    intro r hr
    cases r <;> first
      | rfl
      | exact absurd (List.mem_of_elem_eq_true rfl) hr, by
    intro f hf
    cases f <;> simp [exchangeA] at hf ⊢⟩

theorem blockMove_keeps (dst src : Byte) (delta : Word) :
    Keeps [.a, .x, .y, .dbr, .pc] [] s (blockMove dst src delta base mods s) :=
  ⟨by
    intro r hr
    cases r <;> first
      | rfl
      | exact absurd (List.mem_of_elem_eq_true rfl) hr, fun _ _ => rfl⟩

theorem compareWith_keeps (w : Width) (v : Word) (o : Operand) :
    Keeps [] [.c, .z, .n] s (compareWith w v o base mods s) :=
  ⟨by intro r _; cases r <;> rfl, by
    intro f hf
    cases f <;> simp [compareWith, compareFlags] at hf ⊢⟩

theorem stepX_keeps (delta : Word) :
    Keeps [.x] [.z, .n] s (stepX delta base mods s) :=
  ⟨by
    intro r hr
    cases r <;> first
      | rfl
      | exact absurd (List.mem_of_elem_eq_true rfl) hr, by
    intro f hf
    cases f <;> simp [stepX] at hf ⊢⟩

theorem stepY_keeps (delta : Word) :
    Keeps [.y] [.z, .n] s (stepY delta base mods s) :=
  ⟨by
    intro r hr
    cases r <;> first
      | rfl
      | exact absurd (List.mem_of_elem_eq_true rfl) hr, by
    intro f hf
    cases f <;> simp [stepY] at hf ⊢⟩

theorem branchIf_keeps (cond : Bool) (off : Byte) :
    Keeps [.pc] [] s (branchIf cond off base mods s) :=
  ⟨by
    intro r hr
    cases r <;> first
      | rfl
      | exact absurd (List.mem_of_elem_eq_true rfl) hr, fun _ _ => rfl⟩

theorem jumpTo_keeps (target : Word) :
    Keeps [.pc] [] s (jumpTo target base mods s) :=
  ⟨by
    intro r hr
    cases r <;> first
      | rfl
      | exact absurd (List.mem_of_elem_eq_true rfl) hr, fun _ _ => rfl⟩

theorem jumpThrough_keeps (target : Word × Bus) :
    Keeps [.pc] [] s (jumpThrough target base mods s) :=
  ⟨by
    intro r hr
    cases r <;> first
      | rfl
      | exact absurd (List.mem_of_elem_eq_true rfl) hr, fun _ _ => rfl⟩

theorem jumpLongThrough_keeps (target : Addr × Bus) :
    Keeps [.pc, .pbr] [] s (jumpLongThrough target base mods s) :=
  ⟨by
    intro r hr
    cases r <;> first
      | rfl
      | exact absurd (List.mem_of_elem_eq_true rfl) hr, fun _ _ => rfl⟩

theorem callTo_keeps (target : Word) :
    Keeps [.pc, .sp] [] s (callTo target base mods s) :=
  ⟨by
    intro r hr
    cases r <;> first
      | rfl
      | exact absurd (List.mem_of_elem_eq_true rfl) hr, fun _ _ => rfl⟩

theorem callThrough_keeps (addr : Word) :
    Keeps [.pc, .sp] [] s (callThrough addr base mods s) :=
  ⟨by
    intro r hr
    cases r <;> first
      | rfl
      | exact absurd (List.mem_of_elem_eq_true rfl) hr, fun _ _ => rfl⟩

theorem callLong_keeps (target : Addr) :
    Keeps [.pc, .pbr, .sp] [] s (callLong target base mods s) :=
  ⟨by
    intro r hr
    cases r <;> first
      | rfl
      | exact absurd (List.mem_of_elem_eq_true rfl) hr, fun _ _ => rfl⟩

theorem returnNear_keeps :
    Keeps [.pc, .sp] [] s (returnNear base mods s) :=
  ⟨by
    intro r hr
    cases r <;> first
      | rfl
      | exact absurd (List.mem_of_elem_eq_true rfl) hr, fun _ _ => rfl⟩

theorem returnLong_keeps :
    Keeps [.pc, .pbr, .sp] [] s (returnLong base mods s) :=
  ⟨by
    intro r hr
    cases r <;> first
      | rfl
      | exact absurd (List.mem_of_elem_eq_true rfl) hr, fun _ _ => rfl⟩

theorem softInterrupt_keeps (kind : Interrupt) :
    Keeps [.sp, .pc, .pbr] [.i] s (softInterrupt kind base mods s) := by
  obtain ⟨lo, hi, -, -, e⟩ := s.enterInterrupt_eq kind
  rw [softInterrupt, e]
  exact ⟨by
    intro r hr
    cases r <;> first
      | rfl
      | exact absurd (List.mem_of_elem_eq_true rfl) hr, fun g hg => flag_setFlag_other _ _ fun h => hg (by simp [h])⟩

theorem returnInterrupt_keeps :
    Keeps [.sp, .pc, .pbr, .x, .y] [.c, .z, .i, .d, .x, .m, .v, .n] s (returnInterrupt base mods s) :=
  ⟨by
    intro r hr
    cases r <;> first
      | rfl
      | exact absurd (List.mem_of_elem_eq_true rfl) hr, fun f hf => absurd (by cases f <;> decide) hf⟩

theorem pushReg_keeps (w : Width) (v : Word) :
    Keeps [.sp] [] s (pushReg w v base mods s) :=
  ⟨by
    intro r hr
    cases r <;> first
      | rfl
      | exact absurd (List.mem_of_elem_eq_true rfl) hr
      | simp [State.reg, pushReg], fun f _ => by simp [pushReg]⟩

theorem pushByte_keeps (v : Byte) :
    Keeps [.sp] [] s (pushByte v base mods s) :=
  ⟨by
    intro r hr
    cases r <;> first
      | rfl
      | exact absurd (List.mem_of_elem_eq_true rfl) hr, fun _ _ => rfl⟩

theorem pushWord_keeps (v : Word) :
    Keeps [.sp] [] s (pushWord v base mods s) :=
  ⟨by
    intro r hr
    cases r <;> first
      | rfl
      | exact absurd (List.mem_of_elem_eq_true rfl) hr, fun _ _ => rfl⟩

theorem pushPointer_keeps (off : Byte) :
    Keeps [.sp] [] s (pushPointer off base mods s) :=
  ⟨by
    intro r hr
    cases r <;> first
      | rfl
      | exact absurd (List.mem_of_elem_eq_true rfl) hr, fun _ _ => rfl⟩

theorem pullA_keeps :
    Keeps [.a, .sp] [.z, .n] s (pullA base mods s) :=
  ⟨by
    intro r hr
    cases r <;> first
      | rfl
      | exact absurd (List.mem_of_elem_eq_true rfl) hr
      | simp [State.reg, pullA], by
    intro f hf
    cases f <;> simp [pullA] at hf ⊢⟩

theorem pullX_keeps :
    Keeps [.x, .sp] [.z, .n] s (pullX base mods s) :=
  ⟨by
    intro r hr
    cases r <;> first
      | rfl
      | exact absurd (List.mem_of_elem_eq_true rfl) hr
      | simp [State.reg, pullX], by
    intro f hf
    cases f <;> simp [pullX] at hf ⊢⟩

theorem pullY_keeps :
    Keeps [.y, .sp] [.z, .n] s (pullY base mods s) :=
  ⟨by
    intro r hr
    cases r <;> first
      | rfl
      | exact absurd (List.mem_of_elem_eq_true rfl) hr
      | simp [State.reg, pullY], by
    intro f hf
    cases f <;> simp [pullY] at hf ⊢⟩

theorem pullP_keeps :
    Keeps [.sp, .x, .y] [.c, .z, .i, .d, .x, .m, .v, .n] s (pullP base mods s) :=
  ⟨by
    intro r hr
    cases r <;> first
      | rfl
      | exact absurd (List.mem_of_elem_eq_true rfl) hr, fun f hf => absurd (by cases f <;> decide) hf⟩

theorem pullB_keeps :
    Keeps [.sp, .dbr] [.z, .n] s (pullB base mods s) :=
  ⟨by
    intro r hr
    cases r <;> first
      | rfl
      | exact absurd (List.mem_of_elem_eq_true rfl) hr, by
    intro f hf
    cases f <;> simp [pullB] at hf ⊢⟩

theorem pullD_keeps :
    Keeps [.sp, .d] [.z, .n] s (pullD base mods s) :=
  ⟨by
    intro r hr
    cases r <;> first
      | rfl
      | exact absurd (List.mem_of_elem_eq_true rfl) hr, by
    intro f hf
    cases f <;> simp [pullD] at hf ⊢⟩

theorem writeFlag_keeps (f : Flag) (value : Bool) :
    Keeps [] [f] s (writeFlag f value base mods s) :=
  ⟨by intro r _; cases r <;> rfl, fun g hg => flag_setFlag_other _ _ fun h => hg (by simp [h])⟩

theorem writeStatus_keeps (v : Byte) :
    Keeps [.x, .y] [.c, .z, .i, .d, .x, .m, .v, .n] s (writeStatus v base mods s) :=
  ⟨by
    intro r hr
    cases r <;> first
      | rfl
      | exact absurd (List.mem_of_elem_eq_true rfl) hr, fun f hf => absurd (by cases f <;> decide) hf⟩

theorem doNothing_keeps :
    Keeps [] [] s (doNothing base mods s) :=
  ⟨by intro r _; cases r <;> rfl, fun _ _ => rfl⟩

theorem beginWaiting_keeps :
    Keeps [.waiting] [] s (beginWaiting base mods s) :=
  ⟨by
    intro r hr
    cases r <;> first
      | rfl
      | exact absurd (List.mem_of_elem_eq_true rfl) hr, fun _ _ => rfl⟩

theorem stopProcessor_keeps :
    Keeps [.stopped] [] s (stopProcessor base mods s) :=
  ⟨by
    intro r hr
    cases r <;> first
      | rfl
      | exact absurd (List.mem_of_elem_eq_true rfl) hr, fun _ _ => rfl⟩

theorem binaryA_keeps {fs : List Flag} {f : BinaryOp} (hf : KeepsFlags fs f) (o : Operand) :
    Keeps [.a] fs s (binaryA f o base mods s) :=
  ⟨by
    intro r hr
    cases r <;> first
      | rfl
      | exact absurd (List.mem_of_elem_eq_true rfl) hr, fun g hg => hf _ _ _ _ g hg⟩

theorem modifyA_keeps {fs : List Flag} {f : UnaryOp} (hf : UnaryKeepsFlags fs f) :
    Keeps [.a] fs s (modifyA f base mods s) :=
  ⟨by
    intro r hr
    cases r <;> first
      | rfl
      | exact absurd (List.mem_of_elem_eq_true rfl) hr, fun g hg => hf _ _ _ g hg⟩

theorem modifyMemory_keeps {fs : List Flag} {f : UnaryOp} (hf : UnaryKeepsFlags fs f) (mode : AddrMode) :
    Keeps [] fs s (modifyMemory f mode base mods s) :=
  ⟨by intro r _; cases r <;> rfl, fun g hg => hf _ _ _ g hg⟩

/-- BIT with an immediate changes Z alone. -/
theorem testA_keeps_imm (v : Imm) : Keeps [] [.z] s (testA (.imm v) base mods s) :=
  ⟨by intro r _; cases r <;> rfl, by
    intro f hf
    cases f <;> simp [testA, bitTest, Operand.isImm] at hf ⊢⟩

/-- BIT with memory changes Z, N and V. -/
theorem testA_keeps (o : Operand) : Keeps [] [.z, .n, .v] s (testA o base mods s) :=
  ⟨by intro r _; cases r <;> rfl, by
    intro f hf
    cases o <;> cases f <;> simp [testA, bitTest, Operand.isImm] at hf ⊢⟩

/-- XCE. -/
theorem exchangeCE_keeps : Keeps [.e, .x, .y, .sp] [.c, .m, .x] s (exchangeCE base mods s) := by
  unfold exchangeCE
  split
  · exact ⟨by
      intro r hr
      cases r <;> first
        | rfl
        | exact absurd (List.mem_of_elem_eq_true rfl) hr, by
      intro f hf
      cases f <;> simp [State.enterEmulation] at hf ⊢⟩
  · exact ⟨by
      intro r hr
      cases r <;> first
        | rfl
        | exact absurd (List.mem_of_elem_eq_true rfl) hr, by
      intro f hf
      cases f <;> simp at hf ⊢⟩

/-- XCE where emulation mode is not entered. -/
theorem exchangeCE_keeps_mode (h : (!s.e && flag s.p .c) = false) : Keeps [.e] [.c] s (exchangeCE base mods s) := by
  unfold exchangeCE
  rw [h]
  exact ⟨by
      intro r hr
      cases r <;> first
        | rfl
        | exact absurd (List.mem_of_elem_eq_true rfl) hr, by
      intro f hf
      cases f <;> simp at hf ⊢⟩

end Sys2Proof.Machine
end

