-- ==== Sys2Proof/Laws/Writes.lean ====
section
/-! SUPPORT. Which registers and flags each instruction may write, and that it writes no others. -/

namespace Sys2Proof.Machine

/-- The registers and the flags an instruction may write, by the rules of 42_load_store_transfer.md to
47_status_system.md. -/
def writes : Instr → List Reg × List Flag
  | .brk _ | .cop _ => ([.sp, .pc, .pbr], [.i])
  | .oraDpIndX _ | .oraSr _ | .oraDp _ | .oraDpIndL _ | .oraImm _ | .oraAbs _ | .oraLong _ | .oraDpIndY _
    | .oraDpInd _ | .oraSrIndY _ | .oraDpX _ | .oraDpIndLY _ | .oraAbsY _ | .incAcc | .oraAbsX _ | .oraLongX _
    | .andDpIndX _ | .andSr _ | .andDp _ | .andDpIndL _ | .andImm _ | .andAbs _ | .andLong _ | .andDpIndY _
    | .andDpInd _ | .andSrIndY _ | .andDpX _ | .andDpIndLY _ | .andAbsY _ | .decAcc | .tsc | .andAbsX _
    | .andLongX _ | .eorDpIndX _ | .eorSr _ | .eorDp _ | .eorDpIndL _ | .eorImm _ | .eorAbs _ | .eorLong _
    | .eorDpIndY _ | .eorDpInd _ | .eorSrIndY _ | .eorDpX _ | .eorDpIndLY _ | .eorAbsY _ | .eorAbsX _
    | .eorLongX _ | .tdc | .txa | .tya | .ldaDpIndX _ | .ldaSr _ | .ldaDp _ | .ldaDpIndL _ | .ldaImm _
    | .ldaAbs _ | .ldaLong _ | .ldaDpIndY _ | .ldaDpInd _ | .ldaSrIndY _ | .ldaDpX _ | .ldaDpIndLY _
    | .ldaAbsY _ | .ldaAbsX _ | .ldaLongX _ | .xba => ([.a], [.z, .n])
  | .tsbDp _ | .tsbAbs _ | .trbDp _ | .trbAbs _ | .bitImm _ => ([], [.z])
  | .aslDp _ | .aslAbs _ | .aslDpX _ | .aslAbsX _ | .rolDp _ | .rolAbs _ | .rolDpX _ | .rolAbsX _ | .lsrDp _
    | .lsrAbs _ | .lsrDpX _ | .lsrAbsX _ | .rorDp _ | .rorAbs _ | .rorDpX _ | .rorAbsX _ | .cpyImm _
    | .cmpDpIndX _ | .cmpSr _ | .cpyDp _ | .cmpDp _ | .cmpDpIndL _ | .cmpImm _ | .cpyAbs _ | .cmpAbs _
    | .cmpLong _ | .cmpDpIndY _ | .cmpDpInd _ | .cmpSrIndY _ | .cmpDpX _ | .cmpDpIndLY _ | .cmpAbsY _
    | .cmpAbsX _ | .cmpLongX _ | .cpxImm _ | .cpxDp _ | .cpxAbs _ => ([], [.c, .z, .n])
  | .php | .phd | .tcs | .pha | .phk | .phy | .per _ | .phb | .txs | .pei _ | .phx | .pea _ => ([.sp], [])
  | .aslAcc | .rolAcc | .lsrAcc | .rorAcc => ([.a], [.c, .z, .n])
  | .bpl _ | .bmi _ | .jmpAbs _ | .bvc _ | .jmpInd _ | .bvs _ | .jmpIndX _ | .bra _ | .brl _ | .bcc _ | .bcs _
    | .bne _ | .beq _ => ([.pc], [])
  | .clc | .sec => ([], [.c])
  | .jsrAbs _ | .rts | .jsrIndX _ => ([.pc, .sp], [])
  | .jsl _ | .rtl => ([.pc, .pbr, .sp], [])
  | .bitDp _ | .bitAbs _ | .bitDpX _ | .bitAbsX _ => ([], [.z, .n, .v])
  | .plp => ([.sp, .x, .y], [.c, .z, .i, .d, .x, .m, .v, .n])
  | .pld => ([.sp, .d], [.z, .n])
  | .rti => ([.sp, .pc, .pbr, .x, .y], [.c, .z, .i, .d, .x, .m, .v, .n])
  | .wdm _ | .stzDp _ | .stzDpX _ | .staDpIndX _ | .staSr _ | .styDp _ | .staDp _ | .stxDp _ | .staDpIndL _
    | .styAbs _ | .staAbs _ | .stxAbs _ | .staLong _ | .staDpIndY _ | .staDpInd _ | .staSrIndY _ | .styDpX _
    | .staDpX _ | .stxDpY _ | .staDpIndLY _ | .staAbsY _ | .stzAbs _ | .staAbsX _ | .stzAbsX _ | .staLongX _
    | .nop => ([], [])
  | .mvp _ _ | .mvn _ _ => ([.a, .x, .y, .dbr, .pc], [])
  | .cli | .sei => ([], [.i])
  | .tcd => ([.d], [.z, .n])
  | .jmlLong _ | .jmlInd _ => ([.pc, .pbr], [])
  | .adcDpIndX _ | .adcSr _ | .adcDp _ | .adcDpIndL _ | .adcImm _ | .adcAbs _ | .adcLong _ | .adcDpIndY _
    | .adcDpInd _ | .adcSrIndY _ | .adcDpX _ | .adcDpIndLY _ | .adcAbsY _ | .adcAbsX _ | .adcLongX _
    | .sbcDpIndX _ | .sbcSr _ | .sbcDp _ | .sbcDpIndL _ | .sbcImm _ | .sbcAbs _ | .sbcLong _ | .sbcDpIndY _
    | .sbcDpInd _ | .sbcSrIndY _ | .sbcDpX _ | .sbcDpIndLY _ | .sbcAbsY _ | .sbcAbsX _ | .sbcLongX _ => ([.a], [.c, .z, .v, .n])
  | .pla => ([.a, .sp], [.z, .n])
  | .ply => ([.y, .sp], [.z, .n])
  | .dey | .txy | .ldyImm _ | .ldyDp _ | .tay | .ldyAbs _ | .ldyDpX _ | .ldyAbsX _ | .iny => ([.y], [.z, .n])
  | .ldxImm _ | .ldxDp _ | .tax | .ldxAbs _ | .ldxDpY _ | .tsx | .tyx | .ldxAbsY _ | .dex | .inx => ([.x], [.z, .n])
  | .plb => ([.sp, .dbr], [.z, .n])
  | .clv => ([], [.v])
  | .rep _ | .sep _ => ([.x, .y], [.c, .z, .i, .d, .x, .m, .v, .n])
  | .decDp _ | .decAbs _ | .decDpX _ | .decAbsX _ | .incDp _ | .incAbs _ | .incDpX _ | .incAbsX _ => ([], [.z, .n])
  | .wai => ([.waiting], [])
  | .cld | .sed => ([], [.d])
  | .stp => ([.stopped], [])
  | .plx => ([.x, .sp], [.z, .n])
  | .xce => ([.e, .x, .y, .sp], [.c, .m, .x])

/-- An instruction writes no register and no flag but those. -/
theorem exec_keeps {i : Instr} {s t : State} (h : exec i s = .next t) : Keeps (writes i).1 (writes i).2 s t := by
  cases i
  case brk => cases h; exact softInterrupt_keeps _ _ s _
  case oraDpIndX => cases h; exact binaryA_keeps _ _ s bitOr_keepsFlags _
  case cop => cases h; exact softInterrupt_keeps _ _ s _
  case oraSr => cases h; exact binaryA_keeps _ _ s bitOr_keepsFlags _
  case tsbDp => cases h; exact modifyMemory_keeps _ _ s (testAndSet_keepsFlags _) _
  case oraDp => cases h; exact binaryA_keeps _ _ s bitOr_keepsFlags _
  case aslDp => cases h; exact modifyMemory_keeps _ _ s shiftLeft_keepsFlags _
  case oraDpIndL => cases h; exact binaryA_keeps _ _ s bitOr_keepsFlags _
  case php => cases h; exact pushByte_keeps _ _ s _
  case oraImm => cases h; exact binaryA_keeps _ _ s bitOr_keepsFlags _
  case aslAcc => cases h; exact modifyA_keeps _ _ s shiftLeft_keepsFlags
  case phd => cases h; exact pushWord_keeps _ _ s _
  case tsbAbs => cases h; exact modifyMemory_keeps _ _ s (testAndSet_keepsFlags _) _
  case oraAbs => cases h; exact binaryA_keeps _ _ s bitOr_keepsFlags _
  case aslAbs => cases h; exact modifyMemory_keeps _ _ s shiftLeft_keepsFlags _
  case oraLong => cases h; exact binaryA_keeps _ _ s bitOr_keepsFlags _
  case bpl => cases h; exact branchIf_keeps _ _ s _ _
  case oraDpIndY => cases h; exact binaryA_keeps _ _ s bitOr_keepsFlags _
  case oraDpInd => cases h; exact binaryA_keeps _ _ s bitOr_keepsFlags _
  case oraSrIndY => cases h; exact binaryA_keeps _ _ s bitOr_keepsFlags _
  case trbDp => cases h; exact modifyMemory_keeps _ _ s (testAndReset_keepsFlags _) _
  case oraDpX => cases h; exact binaryA_keeps _ _ s bitOr_keepsFlags _
  case aslDpX => cases h; exact modifyMemory_keeps _ _ s shiftLeft_keepsFlags _
  case oraDpIndLY => cases h; exact binaryA_keeps _ _ s bitOr_keepsFlags _
  case clc => cases h; exact writeFlag_keeps _ _ s _ _
  case oraAbsY => cases h; exact binaryA_keeps _ _ s bitOr_keepsFlags _
  case incAcc => cases h; exact modifyA_keeps _ _ s increment_keepsFlags
  case tcs => cases h; exact transferToStack_keeps _ _ s _
  case trbAbs => cases h; exact modifyMemory_keeps _ _ s (testAndReset_keepsFlags _) _
  case oraAbsX => cases h; exact binaryA_keeps _ _ s bitOr_keepsFlags _
  case aslAbsX => cases h; exact modifyMemory_keeps _ _ s shiftLeft_keepsFlags _
  case oraLongX => cases h; exact binaryA_keeps _ _ s bitOr_keepsFlags _
  case jsrAbs => cases h; exact callTo_keeps _ _ s _
  case andDpIndX => cases h; exact binaryA_keeps _ _ s bitAnd_keepsFlags _
  case jsl => cases h; exact callLong_keeps _ _ s _
  case andSr => cases h; exact binaryA_keeps _ _ s bitAnd_keepsFlags _
  case bitDp => cases h; exact testA_keeps _ _ s _
  case andDp => cases h; exact binaryA_keeps _ _ s bitAnd_keepsFlags _
  case rolDp => cases h; exact modifyMemory_keeps _ _ s rotateLeft_keepsFlags _
  case andDpIndL => cases h; exact binaryA_keeps _ _ s bitAnd_keepsFlags _
  case plp => cases h; exact pullP_keeps _ _ s
  case andImm => cases h; exact binaryA_keeps _ _ s bitAnd_keepsFlags _
  case rolAcc => cases h; exact modifyA_keeps _ _ s rotateLeft_keepsFlags
  case pld => cases h; exact pullD_keeps _ _ s
  case bitAbs => cases h; exact testA_keeps _ _ s _
  case andAbs => cases h; exact binaryA_keeps _ _ s bitAnd_keepsFlags _
  case rolAbs => cases h; exact modifyMemory_keeps _ _ s rotateLeft_keepsFlags _
  case andLong => cases h; exact binaryA_keeps _ _ s bitAnd_keepsFlags _
  case bmi => cases h; exact branchIf_keeps _ _ s _ _
  case andDpIndY => cases h; exact binaryA_keeps _ _ s bitAnd_keepsFlags _
  case andDpInd => cases h; exact binaryA_keeps _ _ s bitAnd_keepsFlags _
  case andSrIndY => cases h; exact binaryA_keeps _ _ s bitAnd_keepsFlags _
  case bitDpX => cases h; exact testA_keeps _ _ s _
  case andDpX => cases h; exact binaryA_keeps _ _ s bitAnd_keepsFlags _
  case rolDpX => cases h; exact modifyMemory_keeps _ _ s rotateLeft_keepsFlags _
  case andDpIndLY => cases h; exact binaryA_keeps _ _ s bitAnd_keepsFlags _
  case sec => cases h; exact writeFlag_keeps _ _ s _ _
  case andAbsY => cases h; exact binaryA_keeps _ _ s bitAnd_keepsFlags _
  case decAcc => cases h; exact modifyA_keeps _ _ s decrement_keepsFlags
  case tsc => cases h; exact transferToWholeA_keeps _ _ s _
  case bitAbsX => cases h; exact testA_keeps _ _ s _
  case andAbsX => cases h; exact binaryA_keeps _ _ s bitAnd_keepsFlags _
  case rolAbsX => cases h; exact modifyMemory_keeps _ _ s rotateLeft_keepsFlags _
  case andLongX => cases h; exact binaryA_keeps _ _ s bitAnd_keepsFlags _
  case rti => cases h; exact returnInterrupt_keeps _ _ s
  case eorDpIndX => cases h; exact binaryA_keeps _ _ s bitXor_keepsFlags _
  case wdm => cases h; exact doNothing_keeps _ _ s
  case eorSr => cases h; exact binaryA_keeps _ _ s bitXor_keepsFlags _
  case mvp => cases h; exact blockMove_keeps _ _ s _ _ _
  case eorDp => cases h; exact binaryA_keeps _ _ s bitXor_keepsFlags _
  case lsrDp => cases h; exact modifyMemory_keeps _ _ s shiftRight_keepsFlags _
  case eorDpIndL => cases h; exact binaryA_keeps _ _ s bitXor_keepsFlags _
  case pha => cases h; exact pushReg_keeps _ _ s _ _
  case eorImm => cases h; exact binaryA_keeps _ _ s bitXor_keepsFlags _
  case lsrAcc => cases h; exact modifyA_keeps _ _ s shiftRight_keepsFlags
  case phk => cases h; exact pushByte_keeps _ _ s _
  case jmpAbs => cases h; exact jumpTo_keeps _ _ s _
  case eorAbs => cases h; exact binaryA_keeps _ _ s bitXor_keepsFlags _
  case lsrAbs => cases h; exact modifyMemory_keeps _ _ s shiftRight_keepsFlags _
  case eorLong => cases h; exact binaryA_keeps _ _ s bitXor_keepsFlags _
  case bvc => cases h; exact branchIf_keeps _ _ s _ _
  case eorDpIndY => cases h; exact binaryA_keeps _ _ s bitXor_keepsFlags _
  case eorDpInd => cases h; exact binaryA_keeps _ _ s bitXor_keepsFlags _
  case eorSrIndY => cases h; exact binaryA_keeps _ _ s bitXor_keepsFlags _
  case mvn => cases h; exact blockMove_keeps _ _ s _ _ _
  case eorDpX => cases h; exact binaryA_keeps _ _ s bitXor_keepsFlags _
  case lsrDpX => cases h; exact modifyMemory_keeps _ _ s shiftRight_keepsFlags _
  case eorDpIndLY => cases h; exact binaryA_keeps _ _ s bitXor_keepsFlags _
  case cli => cases h; exact writeFlag_keeps _ _ s _ _
  case eorAbsY => cases h; exact binaryA_keeps _ _ s bitXor_keepsFlags _
  case phy => cases h; exact pushReg_keeps _ _ s _ _
  case tcd => cases h; exact transferToD_keeps _ _ s _
  case jmlLong => cases h; exact jumpLongThrough_keeps _ _ s _
  case eorAbsX => cases h; exact binaryA_keeps _ _ s bitXor_keepsFlags _
  case lsrAbsX => cases h; exact modifyMemory_keeps _ _ s shiftRight_keepsFlags _
  case eorLongX => cases h; exact binaryA_keeps _ _ s bitXor_keepsFlags _
  case rts => cases h; exact returnNear_keeps _ _ s
  case adcDpIndX => cases h; exact binaryA_keeps _ _ s addWithCarry_keepsFlags _
  case per => cases h; exact pushWord_keeps _ _ s _
  case adcSr => cases h; exact binaryA_keeps _ _ s addWithCarry_keepsFlags _
  case stzDp => cases h; exact storeAt_keeps _ _ _ _ _ _
  case adcDp => cases h; exact binaryA_keeps _ _ s addWithCarry_keepsFlags _
  case rorDp => cases h; exact modifyMemory_keeps _ _ s rotateRight_keepsFlags _
  case adcDpIndL => cases h; exact binaryA_keeps _ _ s addWithCarry_keepsFlags _
  case pla => cases h; exact pullA_keeps _ _ s
  case adcImm => cases h; exact binaryA_keeps _ _ s addWithCarry_keepsFlags _
  case rorAcc => cases h; exact modifyA_keeps _ _ s rotateRight_keepsFlags
  case rtl => cases h; exact returnLong_keeps _ _ s
  case jmpInd => cases h; exact jumpThrough_keeps _ _ s _
  case adcAbs => cases h; exact binaryA_keeps _ _ s addWithCarry_keepsFlags _
  case rorAbs => cases h; exact modifyMemory_keeps _ _ s rotateRight_keepsFlags _
  case adcLong => cases h; exact binaryA_keeps _ _ s addWithCarry_keepsFlags _
  case bvs => cases h; exact branchIf_keeps _ _ s _ _
  case adcDpIndY => cases h; exact binaryA_keeps _ _ s addWithCarry_keepsFlags _
  case adcDpInd => cases h; exact binaryA_keeps _ _ s addWithCarry_keepsFlags _
  case adcSrIndY => cases h; exact binaryA_keeps _ _ s addWithCarry_keepsFlags _
  case stzDpX => cases h; exact storeAt_keeps _ _ _ _ _ _
  case adcDpX => cases h; exact binaryA_keeps _ _ s addWithCarry_keepsFlags _
  case rorDpX => cases h; exact modifyMemory_keeps _ _ s rotateRight_keepsFlags _
  case adcDpIndLY => cases h; exact binaryA_keeps _ _ s addWithCarry_keepsFlags _
  case sei => cases h; exact writeFlag_keeps _ _ s _ _
  case adcAbsY => cases h; exact binaryA_keeps _ _ s addWithCarry_keepsFlags _
  case ply => cases h; exact pullY_keeps _ _ s
  case tdc => cases h; exact transferToWholeA_keeps _ _ s _
  case jmpIndX => cases h; exact jumpThrough_keeps _ _ s _
  case adcAbsX => cases h; exact binaryA_keeps _ _ s addWithCarry_keepsFlags _
  case rorAbsX => cases h; exact modifyMemory_keeps _ _ s rotateRight_keepsFlags _
  case adcLongX => cases h; exact binaryA_keeps _ _ s addWithCarry_keepsFlags _
  case bra => cases h; exact branchIf_keeps _ _ s _ _
  case staDpIndX => cases h; exact storeAt_keeps _ _ _ _ _ _
  case brl => cases h; exact jumpTo_keeps _ _ s _
  case staSr => cases h; exact storeAt_keeps _ _ _ _ _ _
  case styDp => cases h; exact storeAt_keeps _ _ _ _ _ _
  case staDp => cases h; exact storeAt_keeps _ _ _ _ _ _
  case stxDp => cases h; exact storeAt_keeps _ _ _ _ _ _
  case staDpIndL => cases h; exact storeAt_keeps _ _ _ _ _ _
  case dey => cases h; exact stepY_keeps _ _ s _
  case bitImm => cases h; exact testA_keeps_imm _ _ s _
  case txa => cases h; exact transferToA_keeps _ _ s _
  case phb => cases h; exact pushByte_keeps _ _ s _
  case styAbs => cases h; exact storeAt_keeps _ _ _ _ _ _
  case staAbs => cases h; exact storeAt_keeps _ _ _ _ _ _
  case stxAbs => cases h; exact storeAt_keeps _ _ _ _ _ _
  case staLong => cases h; exact storeAt_keeps _ _ _ _ _ _
  case bcc => cases h; exact branchIf_keeps _ _ s _ _
  case staDpIndY => cases h; exact storeAt_keeps _ _ _ _ _ _
  case staDpInd => cases h; exact storeAt_keeps _ _ _ _ _ _
  case staSrIndY => cases h; exact storeAt_keeps _ _ _ _ _ _
  case styDpX => cases h; exact storeAt_keeps _ _ _ _ _ _
  case staDpX => cases h; exact storeAt_keeps _ _ _ _ _ _
  case stxDpY => cases h; exact storeAt_keeps _ _ _ _ _ _
  case staDpIndLY => cases h; exact storeAt_keeps _ _ _ _ _ _
  case tya => cases h; exact transferToA_keeps _ _ s _
  case staAbsY => cases h; exact storeAt_keeps _ _ _ _ _ _
  case txs => cases h; exact transferToStack_keeps _ _ s _
  case txy => cases h; exact transferToY_keeps _ _ s _
  case stzAbs => cases h; exact storeAt_keeps _ _ _ _ _ _
  case staAbsX => cases h; exact storeAt_keeps _ _ _ _ _ _
  case stzAbsX => cases h; exact storeAt_keeps _ _ _ _ _ _
  case staLongX => cases h; exact storeAt_keeps _ _ _ _ _ _
  case ldyImm => cases h; exact loadY_keeps _ _ s _
  case ldaDpIndX => cases h; exact loadA_keeps _ _ s _
  case ldxImm => cases h; exact loadX_keeps _ _ s _
  case ldaSr => cases h; exact loadA_keeps _ _ s _
  case ldyDp => cases h; exact loadY_keeps _ _ s _
  case ldaDp => cases h; exact loadA_keeps _ _ s _
  case ldxDp => cases h; exact loadX_keeps _ _ s _
  case ldaDpIndL => cases h; exact loadA_keeps _ _ s _
  case tay => cases h; exact transferToY_keeps _ _ s _
  case ldaImm => cases h; exact loadA_keeps _ _ s _
  case tax => cases h; exact transferToX_keeps _ _ s _
  case plb => cases h; exact pullB_keeps _ _ s
  case ldyAbs => cases h; exact loadY_keeps _ _ s _
  case ldaAbs => cases h; exact loadA_keeps _ _ s _
  case ldxAbs => cases h; exact loadX_keeps _ _ s _
  case ldaLong => cases h; exact loadA_keeps _ _ s _
  case bcs => cases h; exact branchIf_keeps _ _ s _ _
  case ldaDpIndY => cases h; exact loadA_keeps _ _ s _
  case ldaDpInd => cases h; exact loadA_keeps _ _ s _
  case ldaSrIndY => cases h; exact loadA_keeps _ _ s _
  case ldyDpX => cases h; exact loadY_keeps _ _ s _
  case ldaDpX => cases h; exact loadA_keeps _ _ s _
  case ldxDpY => cases h; exact loadX_keeps _ _ s _
  case ldaDpIndLY => cases h; exact loadA_keeps _ _ s _
  case clv => cases h; exact writeFlag_keeps _ _ s _ _
  case ldaAbsY => cases h; exact loadA_keeps _ _ s _
  case tsx => cases h; exact transferToX_keeps _ _ s _
  case tyx => cases h; exact transferToX_keeps _ _ s _
  case ldyAbsX => cases h; exact loadY_keeps _ _ s _
  case ldaAbsX => cases h; exact loadA_keeps _ _ s _
  case ldxAbsY => cases h; exact loadX_keeps _ _ s _
  case ldaLongX => cases h; exact loadA_keeps _ _ s _
  case cpyImm => cases h; exact compareWith_keeps _ _ s _ _ _
  case cmpDpIndX => cases h; exact compareWith_keeps _ _ s _ _ _
  case rep => cases h; exact writeStatus_keeps _ _ s _
  case cmpSr => cases h; exact compareWith_keeps _ _ s _ _ _
  case cpyDp => cases h; exact compareWith_keeps _ _ s _ _ _
  case cmpDp => cases h; exact compareWith_keeps _ _ s _ _ _
  case decDp => cases h; exact modifyMemory_keeps _ _ s decrement_keepsFlags _
  case cmpDpIndL => cases h; exact compareWith_keeps _ _ s _ _ _
  case iny => cases h; exact stepY_keeps _ _ s _
  case cmpImm => cases h; exact compareWith_keeps _ _ s _ _ _
  case dex => cases h; exact stepX_keeps _ _ s _
  case wai => cases h; exact beginWaiting_keeps _ _ s
  case cpyAbs => cases h; exact compareWith_keeps _ _ s _ _ _
  case cmpAbs => cases h; exact compareWith_keeps _ _ s _ _ _
  case decAbs => cases h; exact modifyMemory_keeps _ _ s decrement_keepsFlags _
  case cmpLong => cases h; exact compareWith_keeps _ _ s _ _ _
  case bne => cases h; exact branchIf_keeps _ _ s _ _
  case cmpDpIndY => cases h; exact compareWith_keeps _ _ s _ _ _
  case cmpDpInd => cases h; exact compareWith_keeps _ _ s _ _ _
  case cmpSrIndY => cases h; exact compareWith_keeps _ _ s _ _ _
  case pei => cases h; exact pushPointer_keeps _ _ s _
  case cmpDpX => cases h; exact compareWith_keeps _ _ s _ _ _
  case decDpX => cases h; exact modifyMemory_keeps _ _ s decrement_keepsFlags _
  case cmpDpIndLY => cases h; exact compareWith_keeps _ _ s _ _ _
  case cld => cases h; exact writeFlag_keeps _ _ s _ _
  case cmpAbsY => cases h; exact compareWith_keeps _ _ s _ _ _
  case phx => cases h; exact pushReg_keeps _ _ s _ _
  case stp => cases h; exact stopProcessor_keeps _ _ s
  case jmlInd => cases h; exact jumpLongThrough_keeps _ _ s _
  case cmpAbsX => cases h; exact compareWith_keeps _ _ s _ _ _
  case decAbsX => cases h; exact modifyMemory_keeps _ _ s decrement_keepsFlags _
  case cmpLongX => cases h; exact compareWith_keeps _ _ s _ _ _
  case cpxImm => cases h; exact compareWith_keeps _ _ s _ _ _
  case sbcDpIndX => cases h; exact binaryA_keeps _ _ s subWithBorrow_keepsFlags _
  case sep => cases h; exact writeStatus_keeps _ _ s _
  case sbcSr => cases h; exact binaryA_keeps _ _ s subWithBorrow_keepsFlags _
  case cpxDp => cases h; exact compareWith_keeps _ _ s _ _ _
  case sbcDp => cases h; exact binaryA_keeps _ _ s subWithBorrow_keepsFlags _
  case incDp => cases h; exact modifyMemory_keeps _ _ s increment_keepsFlags _
  case sbcDpIndL => cases h; exact binaryA_keeps _ _ s subWithBorrow_keepsFlags _
  case inx => cases h; exact stepX_keeps _ _ s _
  case sbcImm => cases h; exact binaryA_keeps _ _ s subWithBorrow_keepsFlags _
  case nop => cases h; exact doNothing_keeps _ _ s
  case xba => cases h; exact exchangeA_keeps _ _ s
  case cpxAbs => cases h; exact compareWith_keeps _ _ s _ _ _
  case sbcAbs => cases h; exact binaryA_keeps _ _ s subWithBorrow_keepsFlags _
  case incAbs => cases h; exact modifyMemory_keeps _ _ s increment_keepsFlags _
  case sbcLong => cases h; exact binaryA_keeps _ _ s subWithBorrow_keepsFlags _
  case beq => cases h; exact branchIf_keeps _ _ s _ _
  case sbcDpIndY => cases h; exact binaryA_keeps _ _ s subWithBorrow_keepsFlags _
  case sbcDpInd => cases h; exact binaryA_keeps _ _ s subWithBorrow_keepsFlags _
  case sbcSrIndY => cases h; exact binaryA_keeps _ _ s subWithBorrow_keepsFlags _
  case pea => cases h; exact pushWord_keeps _ _ s _
  case sbcDpX => cases h; exact binaryA_keeps _ _ s subWithBorrow_keepsFlags _
  case incDpX => cases h; exact modifyMemory_keeps _ _ s increment_keepsFlags _
  case sbcDpIndLY => cases h; exact binaryA_keeps _ _ s subWithBorrow_keepsFlags _
  case sed => cases h; exact writeFlag_keeps _ _ s _ _
  case sbcAbsY => cases h; exact binaryA_keeps _ _ s subWithBorrow_keepsFlags _
  case plx => cases h; exact pullX_keeps _ _ s
  case xce => cases h; exact exchangeCE_keeps _ _ s
  case jsrIndX => cases h; exact callThrough_keeps _ _ s _
  case sbcAbsX => cases h; exact binaryA_keeps _ _ s subWithBorrow_keepsFlags _
  case incAbsX => cases h; exact modifyMemory_keeps _ _ s increment_keepsFlags _
  case sbcLongX => cases h; exact binaryA_keeps _ _ s subWithBorrow_keepsFlags _

end Sys2Proof.Machine
end

