-- ==== Sys2Proof/Laws/Results.lean ====
section
/-! SUPPORT. The terms of Safety.lean met by what the meanings write: N and Z, the accumulator, the index registers, the
cycle charge; and what stores, read-modify-writes and pushes leave of memory. -/

namespace Sys2Proof.Machine

/-- setNZ leaves Z and N as NZFrom says (10_state.md R35). -/
theorem nzFrom_setNZ {w : Width} {v : Word} {t : State} (p : Byte) (h : t.p = setNZ p w v) : NZFrom w v t := by
  refine ⟨?_, ?_⟩
  · rw [h, setNZ_z_iff]
  · rw [h]
    exact flag_setNZ_n _ _ _

/-- The same for the value at its width. -/
theorem nzFrom_trunc {w : Width} {v : Word} {t : State} (p : Byte) (h : t.p = setNZ p w v) : NZFrom w (w.trunc v) t := by
  refine ⟨?_, ?_⟩
  · rw [h, setNZ_z_iff, Width.toNat_trunc, Nat.mod_mod]
  · rw [h, flag_setNZ_n]
    exact (w.msb_trunc v).symm

/-- A written by setA (10_state.md R33). -/
theorem accumulatorIs_merge {s t : State} {v : Word} (h : t.a = s.wM.merge s.a v) : AccumulatorIs v s t := by
  rw [AccumulatorIs, h]
  refine ⟨fun hm => ?_, fun hm => ?_⟩ <;> simp [State.wM, hm, Width.merge]

/-- An index register written by setX or setY (10_state.md R34). -/
theorem indexIs_trunc {s : State} {register v : Word} (h : register = s.wX.trunc v) : IndexIs v s register := by
  rw [IndexIs, h]
  refine ⟨fun hm => ?_, fun hm => ?_⟩ <;> simp [State.wX, hm, Width.trunc]

theorem State.getA_fits (s : State) : s.getA.toNat < 2 ^ s.wM.bits := by
  rw [getA, Width.toNat_trunc]
  exact Nat.mod_lt _ (Nat.two_pow_pos _)

theorem State.getX_fits (s : State) : s.getX.toNat < 2 ^ s.wX.bits := by
  rw [getX, Width.toNat_trunc]
  exact Nat.mod_lt _ (Nat.two_pow_pos _)

theorem State.getY_fits (s : State) : s.getY.toNat < 2 ^ s.wX.bits := by
  rw [getY, Width.toNat_trunc]
  exact Nat.mod_lt _ (Nat.two_pow_pos _)

/-- The index registers under a write of the whole of P (10_state.md R36). -/
theorem State.setP_index (s : State) (p : Byte) :
    (flag p .x = true → (s.setP p).x.toNat = s.x.toNat % 256 ∧ (s.setP p).y.toNat = s.y.toNat % 256) ∧
      (flag p .x = false → (s.setP p).x = s.x ∧ (s.setP p).y = s.y) := by
  refine ⟨fun h => ?_, fun h => ?_⟩ <;> simp [setP, h, toNat_zextWord, toNat_loByte]

/-- An 8-bit write of a value's low byte is a write of the value. -/
theorem Bus.writeAt_trunc (b : Bus) (w : Width) (a : Addr) (v : Word) : b.writeAt w a (w.trunc v) = b.writeAt w a v := by
  cases w <;> simp [writeAt, Width.trunc]

/-- A relative target as signed arithmetic inside the bank (41_addressing.md R160). -/
theorem toNat_add_sextWord (pc : Word) (off : Byte) :
    ((pc + sextWord off).toNat : Int) = ((pc.toNat : Int) + off.toInt) % 0x10000 := by
  rw [BitVec.toNat_add, sextWord, BitVec.signExtend]
  simp only [BitVec.toNat_ofInt]
  have := pc.isLt
  have h := BitVec.toInt_eq_toNat_bmod off
  push_cast
  omega

/-- Two offsets lie in different pages. -/
theorem hiByte_bne (a b : Word) : (hiByte a != hiByte b) = true ↔ a.toNat / 256 ≠ b.toNat / 256 := by
  rw [bne_iff_ne, ne_eq, ← BitVec.toNat_inj, toNat_hiByte, toNat_hiByte]

theorem loByte_eq_zero (v : Word) : loByte v = 0 ↔ v.toNat % 256 = 0 := by
  rw [← BitVec.toNat_inj, toNat_loByte]
  rfl

/-- Every instruction is charged by its row (30_encoding.md R105). -/
theorem exec_charged {i : Instr} {s t : State} (h : exec i s = .next t) : ∃ facts, Charged i facts s t := by
  cases i
  all_goals
    cases h
    simp only [Charged, Instr.opcode, encode, List.headD_cons]
  case pha | pla =>
    refine ⟨{}, ?_⟩
    simp only [pushReg, pullA]
    cases s.wM <;> rfl
  case phx | phy | plx | ply =>
    refine ⟨{}, ?_⟩
    simp only [pushReg, pullX, pullY]
    cases s.wX <;> rfl
  case xce =>
    refine ⟨{}, ?_⟩
    simp only [exchangeCE]
    split <;> rfl
  all_goals
    exact ⟨_, rfl⟩

/-- A store that invokes no callback leaves every byte outside the bytes of its width at its effective address. -/
theorem storeAt_memory (mode : AddrMode) (w : Width) (v : Word) (base : Nat) (mods : List Modifier) {s : State}
    (hw : s.bus.wf = true) (hq : Quiet s (storeAt mode w v base mods s)) :
    MemoryKeptBut (bytesAt w (mode.resolve s).ea) s (storeAt mode w v base mods s) := by
  obtain ⟨h1, h2⟩ := (mode.resolve_grows s).quiet_parts (Bus.writeAt_grows _ w (mode.resolve s).ea v) hq
  have e := AddrMode.resolve_quiet h1
  intro x hx
  show ((mode.resolve s).bus.writeAt w _ v).peek x = _
  rw [e] at h2 ⊢
  exact Bus.peek_writeAt_other hw h2 hx

/-- A read-modify-write that invokes no callback leaves every byte outside the bytes of its width at its effective
address. -/
theorem modifyMemory_memory (f : UnaryOp) (mode : AddrMode) (base : Nat) (mods : List Modifier) {s : State}
    (hw : s.bus.wf = true) (hq : Quiet s (modifyMemory f mode base mods s)) :
    MemoryKeptBut (bytesAt s.wM (mode.resolve s).ea) s (modifyMemory f mode base mods s) := by
  have hg := Bus.readAt_grows (mode.resolve s).bus s.wM (mode.resolve s).ea
  obtain ⟨h12, h3⟩ := ((mode.resolve_grows s).trans hg).quiet_parts (Bus.writeAt_grows _ s.wM (mode.resolve s).ea
    (f s.wM s.p ((mode.resolve s).bus.readAt s.wM (mode.resolve s).ea).1).value) hq
  obtain ⟨h1, h2⟩ := (mode.resolve_grows s).quiet_parts hg h12
  have e1 := AddrMode.resolve_quiet h1
  have e2 := Bus.readAt_quiet h2
  intro x hx
  show (((mode.resolve s).bus.readAt s.wM _).2.writeAt s.wM _ _).peek x = _
  rw [e2, e1] at h3 ⊢
  exact Bus.peek_writeAt_other hw h3 hx

namespace State

theorem push8_memory {s : State} {v : Byte} (hw : s.bus.wf = true) (hq : (s.push8 v).bus.events = s.bus.events) {a : Addr}
    (ha : locate s.bus.scheme a ≠ locate s.bus.scheme (mkAddr 0x00 s.sp)) : (s.push8 v).bus.peek a = s.bus.peek a :=
  Bus.peek_write_other hw hq ha

theorem push16_memory {s : State} {v : Word} (hw : s.bus.wf = true) (hq : (s.push16 v).bus.events = s.bus.events) {a : Addr}
    (ha : ∀ w ∈ pushedAt s.sp 2, locate s.bus.scheme a ≠ locate s.bus.scheme w) :
    (s.push16 v).bus.peek a = s.bus.peek a := by
  have g := s.push8_grows (hiByte v)
  obtain ⟨h1, h2⟩ := g.quiet_parts (push8_grows _ (loByte v)) hq
  refine (push8_memory (g.wf hw) h2 ?_).trans (push8_memory hw h1 (ha _ (by simp [pushedAt])))
  rw [g.scheme]
  exact ha _ (by simp [pushedAt, push8])

theorem pushAt_memory {s : State} {w : Width} {v : Word} (hw : s.bus.wf = true)
    (hq : (s.pushAt w v).bus.events = s.bus.events) {a : Addr}
    (ha : ∀ x ∈ pushedAt s.sp (w.bits / 8), locate s.bus.scheme a ≠ locate s.bus.scheme x) :
    (s.pushAt w v).bus.peek a = s.bus.peek a := by
  cases w
  · exact push8_memory hw hq (ha _ (by simp [pushedAt, Width.bits]))
  · exact push16_memory hw hq ha

/-- A byte then a word pushed: the return address of JSL, and the start of an interrupt's frame. -/
theorem push8_push16_memory {s : State} {b : Byte} {v : Word} (hw : s.bus.wf = true)
    (hq : ((s.push8 b).push16 v).bus.events = s.bus.events) {a : Addr}
    (ha : ∀ w ∈ pushedAt s.sp 3, locate s.bus.scheme a ≠ locate s.bus.scheme w) :
    ((s.push8 b).push16 v).bus.peek a = s.bus.peek a := by
  have g := s.push8_grows b
  obtain ⟨h1, h2⟩ := g.quiet_parts (push16_grows _ v) hq
  refine (push16_memory (g.wf hw) h2 ?_).trans (push8_memory hw h1 (ha _ (by simp [pushedAt])))
  rw [g.scheme]
  intro w hw'
  exact ha w (by simp [pushedAt, push8] at hw' ⊢; tauto)

theorem pushFrame_memory {s : State} (hw : s.bus.wf = true) (hq : s.pushFrame.bus.events = s.bus.events) {a : Addr}
    (ha : ∀ w ∈ pushedAt s.sp 4, locate s.bus.scheme a ≠ locate s.bus.scheme w) :
    s.pushFrame.bus.peek a = s.bus.peek a := by
  have g := (s.push8_grows s.pbr).trans (push16_grows _ s.pc)
  obtain ⟨h1, h2⟩ := g.quiet_parts (push8_grows _ s.p) hq
  refine (push8_memory (g.wf hw) h2 ?_).trans (push8_push16_memory hw h1 ?_)
  · rw [g.scheme]
    exact ha _ (by simp [pushedAt, push8, push16])
  · intro w hw'
    exact ha w (by simp [pushedAt] at hw' ⊢; tauto)

end State

end Sys2Proof.Machine
end

