-- ==== Sys2Proof/Laws/StackFrames.lean ====
section
/-! SUPPORT. Pulls of bytes that can be peeked, pushes into work RAM, and the frame of an interrupt on the stack
(46_stack.md R290 to R293, 60_exceptions.md R405). -/

namespace Sys2Proof.Machine

/-- The bytes lie where pulls from S find them, the first at 0x00:(S + 1) and each next one above (46_stack.md R292). -/
def PulledFrom (bytes : List Byte) (sp : Word) (b : Bus) : Prop :=
  ∀ k (h : k < bytes.length), b.peek (mkAddr 0x00 (sp + 1 + BitVec.ofNat 16 k)) = some bytes[k]

/-- The bytes on the stack: the first, and the rest from one place higher. -/
theorem PulledFrom.cons {b : Byte} {bs : List Byte} {sp : Word} {bus : Bus} (h : PulledFrom (b :: bs) sp bus) :
    PulledFrom [b] sp bus ∧ PulledFrom bs (sp + 1) bus := by
  refine ⟨fun k hk => ?_, fun k hk => ?_⟩
  · obtain rfl : k = 0 := by simpa using hk
    exact h 0 (by simp)
  · have hn := h (k + 1) (by simpa using hk)
    rw [show sp + 1 + BitVec.ofNat 16 (k + 1) = sp + 1 + 1 + BitVec.ofNat 16 k by bv_omega] at hn
    simpa using hn

namespace State

theorem pop8_of_pulled {s : State} {b : Byte} (h : PulledFrom [b] s.sp s.bus) : s.pop8 = (b, { s with sp := s.sp + 1 }) := by
  have h0 := h 0 (Nat.zero_lt_succ _)
  exact pop8_of_peek (by simpa using h0)

theorem pop16_of_pulled {s : State} {lo hi : Byte} (h : PulledFrom [lo, hi] s.sp s.bus) :
    s.pop16 = (mkWord hi lo, { s with sp := s.sp + 2 }) := by
  obtain ⟨h1, h2⟩ := h.cons
  have e : s.sp + 1 + 1 = s.sp + 2 := by bv_omega
  have h3 : ({ s with sp := s.sp + 1 } : State).pop8 = _ := pop8_of_pulled h2
  rw [pop16, pop8_of_pulled h1]
  simp only [h3, e]

end State

/-- Where the next n stack bytes are work RAM (20_memory.md R54). -/
theorem StackInRam.locate {sp : Word} {n k : Nat} (scheme : Scheme) (h : StackInRam sp n) (hk : k < n) :
    locate scheme (mkAddr 0x00 (sp - BitVec.ofNat 16 k)) = .wram (sp - BitVec.ofNat 16 k).toNat :=
  Bus.locate_low scheme (by decide) (h k hk)

/-- Two of the next n stack bytes are different locations. -/
theorem StackInRam.apart {sp : Word} {n j k : Nat} (scheme : Scheme) (h : StackInRam sp n) (hj : j < n) (hk : k < n)
    (hn : n ≤ 0x10000) (hjk : j ≠ k) :
    Machine.locate scheme (mkAddr 0x00 (sp - BitVec.ofNat 16 j)) ≠
      Machine.locate scheme (mkAddr 0x00 (sp - BitVec.ofNat 16 k)) := by
  rw [h.locate scheme hj, h.locate scheme hk]
  intro e
  have e1 := Location.wram.inj e
  rw [BitVec.toNat_inj] at e1
  have e2 : BitVec.ofNat 16 j = BitVec.ofNat 16 k := by bv_omega
  have e3 := congrArg BitVec.toNat e2
  simp only [BitVec.toNat_ofNat] at e3
  omega

namespace State

/-- A push into work RAM: the byte is there, every other location is as it was, no callback is invoked. -/
theorem push8_ram {s : State} {v : Byte} {sp : Word} {n k : Nat} (hw : s.bus.wf = true) (h : StackInRam sp n) (hk : k < n)
    (hs : s.sp = sp - BitVec.ofNat 16 k) :
    (s.push8 v).bus.peek (mkAddr 0x00 (sp - BitVec.ofNat 16 k)) = some v ∧
      (∀ a, Machine.locate s.bus.scheme a ≠ Machine.locate s.bus.scheme (mkAddr 0x00 (sp - BitVec.ofNat 16 k)) →
        (s.push8 v).bus.peek a = s.bus.peek a) ∧
      (s.push8 v).bus.events = s.bus.events := by
  have hr : (Machine.locate s.bus.scheme (mkAddr 0x00 s.sp)).isRam = true := by
    rw [hs, h.locate s.bus.scheme hk]
    rfl
  rw [← hs]
  exact ⟨Bus.peek_write_same hw hr rfl, fun a ha => Bus.peek_write_other hw (Bus.write_ram_quiet _ hr) ha,
    Bus.write_ram_quiet _ hr⟩

/-- The frame of an interrupt pushed into work RAM: PBR, the bytes of PC and P in their places, no callback invoked. -/
theorem pushFrame_onStack {s : State} (hw : s.bus.wf = true) (h : StackInRam s.sp 4) :
    OnStack [s.pbr, hiByte s.pc, loByte s.pc, s.p] s.sp s.pushFrame.bus ∧ s.pushFrame.bus.events = s.bus.events := by
  have g0 := s.push8_grows s.pbr
  have g1 := (s.push8 s.pbr).push8_grows (hiByte s.pc)
  have g2 := ((s.push8 s.pbr).push8 (hiByte s.pc)).push8_grows (loByte s.pc)
  obtain ⟨p0, -, r0⟩ := push8_ram (v := s.pbr) hw h (by decide : 0 < 4) (by simp)
  obtain ⟨p1, q1, r1⟩ := push8_ram (s := s.push8 s.pbr) (v := hiByte s.pc) (g0.wf hw) h (by decide : 1 < 4) rfl
  obtain ⟨p2, q2, r2⟩ := push8_ram (s := (s.push8 s.pbr).push8 (hiByte s.pc)) (v := loByte s.pc) (g1.wf (g0.wf hw)) h
    (by decide : 2 < 4) (by show s.sp - 1 - 1 = _; bv_omega)
  obtain ⟨p3, q3, r3⟩ := push8_ram (s := ((s.push8 s.pbr).push8 (hiByte s.pc)).push8 (loByte s.pc)) (v := s.p)
    (g2.wf (g1.wf (g0.wf hw))) h (by decide : 3 < 4) (by show s.sp - 1 - 1 - 1 = _; bv_omega)
  rw [g0.scheme] at q1
  rw [(g0.trans g1).scheme] at q2
  rw [((g0.trans g1).trans g2).scheme] at q3
  have ne : ∀ j k, j < 4 → k < 4 → j ≠ k → _ := fun j k hj hk => h.apart (j := j) (k := k) s.bus.scheme hj hk (by decide)
  refine ⟨fun k hk => ?_, r3.trans (r2.trans (r1.trans r0))⟩
  have hk4 : k < 4 := by simpa using hk
  rcases k with _ | _ | _ | _ | k
  · exact (q3 _ (ne 0 3 (by decide) (by decide) (by decide))).trans ((q2 _ (ne 0 2 (by decide) (by decide) (by decide))).trans
      ((q1 _ (ne 0 1 (by decide) (by decide) (by decide))).trans p0))
  · exact (q3 _ (ne 1 3 (by decide) (by decide) (by decide))).trans ((q2 _ (ne 1 2 (by decide) (by decide) (by decide))).trans p1)
  · exact (q3 _ (ne 2 3 (by decide) (by decide) (by decide))).trans p2
  · exact p3
  · omega

/-- A return from an interrupt whose frame can be peeked (45_control.md R278). -/
theorem returnFromInterrupt_of_pulled {s : State} {p lo hi bank : Byte} (h : PulledFrom [p, lo, hi, bank] s.sp s.bus) :
    s.returnFromInterrupt = { s.setP p with sp := s.sp + 4, pc := mkWord hi lo, pbr := bank } := by
  obtain ⟨h1, hr⟩ := h.cons
  have h2 : PulledFrom [lo, hi] (s.sp + 1) s.bus := by
    intro k hk
    have hn := hr k (by simp at hk ⊢; omega)
    rcases k with _ | _ | k <;> first | exact hn | (simp at hk)
  have h3 := hr.cons.2.cons.2
  have e3 : s.sp + 1 + 2 = s.sp + 1 + 1 + 1 := by bv_omega
  have e4 : s.sp + 1 + 2 + 1 = s.sp + 4 := by bv_omega
  rw [← e3] at h3
  have h2' : (({ s with sp := s.sp + 1 } : State).setP p).pop16 =
      (mkWord hi lo, { ({ s with sp := s.sp + 1 } : State).setP p with sp := s.sp + 1 + 2 }) := pop16_of_pulled h2
  have h3' : ((({ ({ s with sp := s.sp + 1 } : State).setP p with sp := s.sp + 1 + 2 } : State)).jump (mkWord hi lo)).pop8 =
      _ := pop8_of_pulled h3
  simp only [returnFromInterrupt, pop8_of_pulled h1, h2']
  rw [h3']
  simp only [jump, setP, e4]

end State

end Sys2Proof.Machine
end

