-- ==== Sys2Proof/Laws/Step.lean ====
section
/-! SUPPORT. The laws of fetching and of the step: what a fetch changes, and the three things a step can be. -/

namespace Sys2Proof.Machine

namespace State

/-- A fetch that invokes no callback. -/
theorem fetch8_of_peek {s : State} {v : Byte} (h : s.bus.peek (mkAddr s.pbr s.pc) = some v) :
    s.fetch8 = (v, { s with pc := s.pc + 1 }) := by
  simp only [fetch8, Bus.read_of_peek h]

/-- Fetching bytes changes PC and, through callbacks, the bus. -/
theorem fetchBytes_keeps (n : Nat) (s : State) :
    ∃ bus, (s.fetchBytes n).2 = { s with pc := s.pc + BitVec.ofNat 16 n, bus := bus } ∧ s.bus.Grows bus ∧
      (s.fetchBytes n).1.length = n := by
  induction n generalizing s with
  | zero => exact ⟨s.bus, by simp [fetchBytes], .refl _, rfl⟩
  | succ n ih =>
    obtain ⟨bus, h, g, hl⟩ := ih s.fetch8.2
    refine ⟨bus, ?_, (Bus.read_grows s.bus _).trans g, by simp [fetchBytes, hl]⟩
    have hpc : s.pc + 1 + BitVec.ofNat 16 n = s.pc + BitVec.ofNat 16 (n + 1) := by bv_omega
    simp only [fetchBytes, h]
    simp only [fetch8, hpc]

/-- Fetching an instruction changes PC by its length and, through callbacks, the bus. -/
theorem fetchInstr_keeps (s : State) :
    ∃ n bus, s.fetchInstr.2 = { s with pc := s.pc + BitVec.ofNat 16 n, bus := bus } ∧ s.bus.Grows bus ∧
      n = 1 + operandCount (flag s.p .m) (flag s.p .x) s.fetch8.1 := by
  obtain ⟨bus, h, g, -⟩ := fetchBytes_keeps (operandCount (flag s.p .m) (flag s.p .x) s.fetch8.1) s.fetch8.2
  refine ⟨_, bus, ?_, (Bus.read_grows s.bus _).trans g, rfl⟩
  have hpc : ∀ n : Nat, s.pc + 1 + BitVec.ofNat 16 n = s.pc + BitVec.ofNat 16 (1 + n) := by intro n; bv_omega
  simp only [fetchInstr, h]
  simp only [fetch8, hpc]

/-- Bytes that can all be peeked are fetched as they stand. -/
theorem fetchBytes_of_peek {s : State} {bs : List Byte}
    (h : ∀ k (hk : k < bs.length), s.bus.peek (mkAddr s.pbr (s.pc + BitVec.ofNat 16 k)) = some bs[k]) :
    s.fetchBytes bs.length = (bs, { s with pc := s.pc + BitVec.ofNat 16 bs.length }) := by
  induction bs generalizing s with
  | nil => simp [fetchBytes]
  | cons b bs ih =>
    have h0 : s.bus.peek (mkAddr s.pbr s.pc) = some b := by
      have := h 0 (Nat.zero_lt_succ _)
      simpa using this
    have hpc : ∀ n : Nat, s.pc + 1 + BitVec.ofNat 16 n = s.pc + BitVec.ofNat 16 (n + 1) := by intro n; bv_omega
    have hr := ih (s := { s with pc := s.pc + 1 }) fun k hk => by
      have := h (k + 1) (by simpa using hk)
      simp only [hpc]
      simpa using this
    simp only [List.length_cons, fetchBytes, fetch8_of_peek h0, hr, hpc]

/-- An interrupt service: everything it writes, in every state (60_exceptions.md R405). -/
theorem serviceInterrupt_eq (s : State) (kind : Interrupt) :
    ∃ lo hi, s.bus.peek (mkAddr 0x00 (kind.vector s.e)) = some lo ∧
      s.bus.peek (mkAddr 0x00 (kind.vector s.e + 1)) = some hi ∧
      s.serviceInterrupt kind =
        { s with
          waiting := false
          sp := s.sp - 4
          p := setFlag s.p .i true
          pbr := 0x00
          pc := mkWord hi lo
          cycles := s.cycles + 7
          bus := if kind = .nmi then { s.pushFrame.bus with nmiPending := false } else s.pushFrame.bus } := by
  obtain ⟨lo, hi, hl, hh, h⟩ := ({ s with waiting := false } : State).enterInterrupt_eq kind
  refine ⟨lo, hi, hl, hh, ?_⟩
  simp only [serviceInterrupt, h, addCycles]
  rfl

end State

/-- A step is an idle step, an interrupt service, or the instruction fetched. -/
theorem step_cases {s t : State} (h : step s = .next t) :
    (s.stepKind = .idle ∧ t = s.idle) ∨ (∃ kind, s.stepKind = .service kind ∧ t = s.serviceInterrupt kind) ∨
      (s.stepKind = .instruction ∧ exec s.awake.fetchInstr.1 s.awake.fetchInstr.2 = .next t) := by
  unfold step at h
  split at h
  · exact .inl ⟨‹_›, (Host.Outcome.next.inj h).symm⟩
  · exact .inr (.inl ⟨_, ‹_›, (Host.Outcome.next.inj h).symm⟩)
  · exact .inr (.inr ⟨‹_›, h⟩)

/-- Where a step does an instruction, what the fetch left grew from the state before. -/
theorem awake_fetch_keeps (s : State) :
    ∃ n bus, s.awake.fetchInstr.2 = { s with waiting := false, pc := s.pc + BitVec.ofNat 16 n, bus := bus } ∧
      s.bus.Grows bus := by
  obtain ⟨n, bus, h, g, -⟩ := s.awake.fetchInstr_keeps
  exact ⟨n, bus, h, g⟩

end Sys2Proof.Machine
end

