-- ==== Sys2Proof/Tests/Slice0.lean ====
section
/-! SUPPORT. Tests of the model: ill-formed instructions refused, every opcode's decoding, one step for the vectors of
95_test_vectors.md (named after them) and for cases worked out from the rules, and for each statement with hypotheses a
witness that they can be met. -/

namespace Sys2Proof.Tests

open Sys2Proof Sys2Proof.Machine

/-! Helpers -/

/-- The boot state of 70_reset_and_hazards.md R454 over a SchemeA image of 0x8000 zero bytes, PC at its first byte. -/
def boot : State := { State.reset with pc := 0x8000, bus := { Bus.construction with romLen := 0x8000 } }

/-- The same in native mode with 16-bit accumulator and index registers. -/
def native : State := { boot with e := false, p := 0x04 }

/-- Put bytes into work RAM. -/
def put (s : State) (cells : List (Nat × Byte)) : State :=
  { s with bus := { s.bus with wram := cells.foldl (fun m c => m.write c.1 c.2) s.bus.wram } }

/-- Put bytes into the ROM image, by offset. -/
def rom (s : State) (cells : List (Nat × Byte)) : State :=
  { s with bus := { s.bus with rom := cells.foldl (fun m c => m.write c.1 c.2) s.bus.rom } }

/-- Raise the request lines. -/
def lines (s : State) (nmi irq : Bool) : State := { s with bus := { s.bus with nmiPending := nmi, irqPending := irq } }

/-- Register callbacks at an offset. -/
def handler (s : State) (offset : Nat) (onRead onWrite : Bool) : State :=
  { s with bus := { s.bus with handlers := Handlers.insert s.bus.handlers offset ⟨onRead, onWrite⟩ } }

def wramAt (s : State) (i : Nat) : Byte := s.bus.wram.read i

/-- A condition on the state after one step of s. -/
def stepped (s : State) (c : State → Bool) : Bool :=
  match step s with
  | .next t => c t
  | _ => false

/-- A condition on the state after one step that fetches the bytes given. -/
def after (s : State) (bytes : List Byte) (c : State → Bool) : Bool := stepped (s.withCode bytes) c

/-- What the decoder reads from bytes under P.M and P.X. -/
def decodes (m x : Bool) (bytes : List Byte) : Option (Instr × List Byte) := (decode m x bytes).toOption

/-! Ill-formed instructions (30_encoding.md R102): an immediate of the other width -/

theorem test_oraImm_ill_formed : (Instr.oraImm (.word 0x1234)).wellFormed true true = false ∧
    (Instr.oraImm (.byte 0x12)).wellFormed false true = false := by decide

theorem test_andImm_ill_formed : (Instr.andImm (.word 0x1234)).wellFormed true true = false ∧
    (Instr.andImm (.byte 0x12)).wellFormed false true = false := by decide

theorem test_eorImm_ill_formed : (Instr.eorImm (.word 0x1234)).wellFormed true true = false ∧
    (Instr.eorImm (.byte 0x12)).wellFormed false true = false := by decide

theorem test_adcImm_ill_formed : (Instr.adcImm (.word 0x1234)).wellFormed true true = false ∧
    (Instr.adcImm (.byte 0x12)).wellFormed false true = false := by decide

theorem test_bitImm_ill_formed : (Instr.bitImm (.word 0x1234)).wellFormed true true = false ∧
    (Instr.bitImm (.byte 0x12)).wellFormed false true = false := by decide

theorem test_ldyImm_ill_formed : (Instr.ldyImm (.word 0x1234)).wellFormed true true = false ∧
    (Instr.ldyImm (.byte 0x12)).wellFormed true false = false := by decide

theorem test_ldxImm_ill_formed : (Instr.ldxImm (.word 0x1234)).wellFormed true true = false ∧
    (Instr.ldxImm (.byte 0x12)).wellFormed true false = false := by decide

theorem test_ldaImm_ill_formed : (Instr.ldaImm (.word 0x1234)).wellFormed true true = false ∧
    (Instr.ldaImm (.byte 0x12)).wellFormed false true = false := by decide

theorem test_cpyImm_ill_formed : (Instr.cpyImm (.word 0x1234)).wellFormed true true = false ∧
    (Instr.cpyImm (.byte 0x12)).wellFormed true false = false := by decide

theorem test_cmpImm_ill_formed : (Instr.cmpImm (.word 0x1234)).wellFormed true true = false ∧
    (Instr.cmpImm (.byte 0x12)).wellFormed false true = false := by decide

theorem test_cpxImm_ill_formed : (Instr.cpxImm (.word 0x1234)).wellFormed true true = false ∧
    (Instr.cpxImm (.byte 0x12)).wellFormed true false = false := by decide

theorem test_sbcImm_ill_formed : (Instr.sbcImm (.word 0x1234)).wellFormed true true = false ∧
    (Instr.sbcImm (.byte 0x12)).wellFormed false true = false := by decide

/-- A byte string that ends before its instruction does is refused. -/
theorem test_truncated_refused : decodes true true [] = none ∧ decodes true true [0x8D, 0x10] = none ∧
    decodes false true [0xA9, 0x10] = none ∧ decodes true false [0xA2, 0x10] = none := by decide

/-! Every opcode's decoding, under P.M = P.X = 1, each followed by the bytes 12 34 56 (30_encoding.md R101, R105) -/

theorem test_decode_row_0 :
    ([0x00, 0x01, 0x02, 0x03, 0x04, 0x05, 0x06, 0x07, 0x08, 0x09, 0x0A, 0x0B, 0x0C, 0x0D, 0x0E, 0x0F] : List Byte).map
      (fun op => decodes true true [op, 0x12, 0x34, 0x56]) =
    [some (.brk 0x12, [0x34, 0x56]),
     some (.oraDpIndX 0x12, [0x34, 0x56]),
     some (.cop 0x12, [0x34, 0x56]),
     some (.oraSr 0x12, [0x34, 0x56]),
     some (.tsbDp 0x12, [0x34, 0x56]),
     some (.oraDp 0x12, [0x34, 0x56]),
     some (.aslDp 0x12, [0x34, 0x56]),
     some (.oraDpIndL 0x12, [0x34, 0x56]),
     some (.php, [0x12, 0x34, 0x56]),
     some (.oraImm (.byte 0x12), [0x34, 0x56]),
     some (.aslAcc, [0x12, 0x34, 0x56]),
     some (.phd, [0x12, 0x34, 0x56]),
     some (.tsbAbs 0x3412, [0x56]),
     some (.oraAbs 0x3412, [0x56]),
     some (.aslAbs 0x3412, [0x56]),
     some (.oraLong 0x563412, [])] := by decide

theorem test_decode_row_1 :
    ([0x10, 0x11, 0x12, 0x13, 0x14, 0x15, 0x16, 0x17, 0x18, 0x19, 0x1A, 0x1B, 0x1C, 0x1D, 0x1E, 0x1F] : List Byte).map
      (fun op => decodes true true [op, 0x12, 0x34, 0x56]) =
    [some (.bpl 0x12, [0x34, 0x56]),
     some (.oraDpIndY 0x12, [0x34, 0x56]),
     some (.oraDpInd 0x12, [0x34, 0x56]),
     some (.oraSrIndY 0x12, [0x34, 0x56]),
     some (.trbDp 0x12, [0x34, 0x56]),
     some (.oraDpX 0x12, [0x34, 0x56]),
     some (.aslDpX 0x12, [0x34, 0x56]),
     some (.oraDpIndLY 0x12, [0x34, 0x56]),
     some (.clc, [0x12, 0x34, 0x56]),
     some (.oraAbsY 0x3412, [0x56]),
     some (.incAcc, [0x12, 0x34, 0x56]),
     some (.tcs, [0x12, 0x34, 0x56]),
     some (.trbAbs 0x3412, [0x56]),
     some (.oraAbsX 0x3412, [0x56]),
     some (.aslAbsX 0x3412, [0x56]),
     some (.oraLongX 0x563412, [])] := by decide

theorem test_decode_row_2 :
    ([0x20, 0x21, 0x22, 0x23, 0x24, 0x25, 0x26, 0x27, 0x28, 0x29, 0x2A, 0x2B, 0x2C, 0x2D, 0x2E, 0x2F] : List Byte).map
      (fun op => decodes true true [op, 0x12, 0x34, 0x56]) =
    [some (.jsrAbs 0x3412, [0x56]),
     some (.andDpIndX 0x12, [0x34, 0x56]),
     some (.jsl 0x563412, []),
     some (.andSr 0x12, [0x34, 0x56]),
     some (.bitDp 0x12, [0x34, 0x56]),
     some (.andDp 0x12, [0x34, 0x56]),
     some (.rolDp 0x12, [0x34, 0x56]),
     some (.andDpIndL 0x12, [0x34, 0x56]),
     some (.plp, [0x12, 0x34, 0x56]),
     some (.andImm (.byte 0x12), [0x34, 0x56]),
     some (.rolAcc, [0x12, 0x34, 0x56]),
     some (.pld, [0x12, 0x34, 0x56]),
     some (.bitAbs 0x3412, [0x56]),
     some (.andAbs 0x3412, [0x56]),
     some (.rolAbs 0x3412, [0x56]),
     some (.andLong 0x563412, [])] := by decide

theorem test_decode_row_3 :
    ([0x30, 0x31, 0x32, 0x33, 0x34, 0x35, 0x36, 0x37, 0x38, 0x39, 0x3A, 0x3B, 0x3C, 0x3D, 0x3E, 0x3F] : List Byte).map
      (fun op => decodes true true [op, 0x12, 0x34, 0x56]) =
    [some (.bmi 0x12, [0x34, 0x56]),
     some (.andDpIndY 0x12, [0x34, 0x56]),
     some (.andDpInd 0x12, [0x34, 0x56]),
     some (.andSrIndY 0x12, [0x34, 0x56]),
     some (.bitDpX 0x12, [0x34, 0x56]),
     some (.andDpX 0x12, [0x34, 0x56]),
     some (.rolDpX 0x12, [0x34, 0x56]),
     some (.andDpIndLY 0x12, [0x34, 0x56]),
     some (.sec, [0x12, 0x34, 0x56]),
     some (.andAbsY 0x3412, [0x56]),
     some (.decAcc, [0x12, 0x34, 0x56]),
     some (.tsc, [0x12, 0x34, 0x56]),
     some (.bitAbsX 0x3412, [0x56]),
     some (.andAbsX 0x3412, [0x56]),
     some (.rolAbsX 0x3412, [0x56]),
     some (.andLongX 0x563412, [])] := by decide

theorem test_decode_row_4 :
    ([0x40, 0x41, 0x42, 0x43, 0x44, 0x45, 0x46, 0x47, 0x48, 0x49, 0x4A, 0x4B, 0x4C, 0x4D, 0x4E, 0x4F] : List Byte).map
      (fun op => decodes true true [op, 0x12, 0x34, 0x56]) =
    [some (.rti, [0x12, 0x34, 0x56]),
     some (.eorDpIndX 0x12, [0x34, 0x56]),
     some (.wdm 0x12, [0x34, 0x56]),
     some (.eorSr 0x12, [0x34, 0x56]),
     some (.mvp 0x12 0x34, [0x56]),
     some (.eorDp 0x12, [0x34, 0x56]),
     some (.lsrDp 0x12, [0x34, 0x56]),
     some (.eorDpIndL 0x12, [0x34, 0x56]),
     some (.pha, [0x12, 0x34, 0x56]),
     some (.eorImm (.byte 0x12), [0x34, 0x56]),
     some (.lsrAcc, [0x12, 0x34, 0x56]),
     some (.phk, [0x12, 0x34, 0x56]),
     some (.jmpAbs 0x3412, [0x56]),
     some (.eorAbs 0x3412, [0x56]),
     some (.lsrAbs 0x3412, [0x56]),
     some (.eorLong 0x563412, [])] := by decide

theorem test_decode_row_5 :
    ([0x50, 0x51, 0x52, 0x53, 0x54, 0x55, 0x56, 0x57, 0x58, 0x59, 0x5A, 0x5B, 0x5C, 0x5D, 0x5E, 0x5F] : List Byte).map
      (fun op => decodes true true [op, 0x12, 0x34, 0x56]) =
    [some (.bvc 0x12, [0x34, 0x56]),
     some (.eorDpIndY 0x12, [0x34, 0x56]),
     some (.eorDpInd 0x12, [0x34, 0x56]),
     some (.eorSrIndY 0x12, [0x34, 0x56]),
     some (.mvn 0x12 0x34, [0x56]),
     some (.eorDpX 0x12, [0x34, 0x56]),
     some (.lsrDpX 0x12, [0x34, 0x56]),
     some (.eorDpIndLY 0x12, [0x34, 0x56]),
     some (.cli, [0x12, 0x34, 0x56]),
     some (.eorAbsY 0x3412, [0x56]),
     some (.phy, [0x12, 0x34, 0x56]),
     some (.tcd, [0x12, 0x34, 0x56]),
     some (.jmlLong 0x563412, []),
     some (.eorAbsX 0x3412, [0x56]),
     some (.lsrAbsX 0x3412, [0x56]),
     some (.eorLongX 0x563412, [])] := by decide

theorem test_decode_row_6 :
    ([0x60, 0x61, 0x62, 0x63, 0x64, 0x65, 0x66, 0x67, 0x68, 0x69, 0x6A, 0x6B, 0x6C, 0x6D, 0x6E, 0x6F] : List Byte).map
      (fun op => decodes true true [op, 0x12, 0x34, 0x56]) =
    [some (.rts, [0x12, 0x34, 0x56]),
     some (.adcDpIndX 0x12, [0x34, 0x56]),
     some (.per 0x3412, [0x56]),
     some (.adcSr 0x12, [0x34, 0x56]),
     some (.stzDp 0x12, [0x34, 0x56]),
     some (.adcDp 0x12, [0x34, 0x56]),
     some (.rorDp 0x12, [0x34, 0x56]),
     some (.adcDpIndL 0x12, [0x34, 0x56]),
     some (.pla, [0x12, 0x34, 0x56]),
     some (.adcImm (.byte 0x12), [0x34, 0x56]),
     some (.rorAcc, [0x12, 0x34, 0x56]),
     some (.rtl, [0x12, 0x34, 0x56]),
     some (.jmpInd 0x3412, [0x56]),
     some (.adcAbs 0x3412, [0x56]),
     some (.rorAbs 0x3412, [0x56]),
     some (.adcLong 0x563412, [])] := by decide

theorem test_decode_row_7 :
    ([0x70, 0x71, 0x72, 0x73, 0x74, 0x75, 0x76, 0x77, 0x78, 0x79, 0x7A, 0x7B, 0x7C, 0x7D, 0x7E, 0x7F] : List Byte).map
      (fun op => decodes true true [op, 0x12, 0x34, 0x56]) =
    [some (.bvs 0x12, [0x34, 0x56]),
     some (.adcDpIndY 0x12, [0x34, 0x56]),
     some (.adcDpInd 0x12, [0x34, 0x56]),
     some (.adcSrIndY 0x12, [0x34, 0x56]),
     some (.stzDpX 0x12, [0x34, 0x56]),
     some (.adcDpX 0x12, [0x34, 0x56]),
     some (.rorDpX 0x12, [0x34, 0x56]),
     some (.adcDpIndLY 0x12, [0x34, 0x56]),
     some (.sei, [0x12, 0x34, 0x56]),
     some (.adcAbsY 0x3412, [0x56]),
     some (.ply, [0x12, 0x34, 0x56]),
     some (.tdc, [0x12, 0x34, 0x56]),
     some (.jmpIndX 0x3412, [0x56]),
     some (.adcAbsX 0x3412, [0x56]),
     some (.rorAbsX 0x3412, [0x56]),
     some (.adcLongX 0x563412, [])] := by decide

theorem test_decode_row_8 :
    ([0x80, 0x81, 0x82, 0x83, 0x84, 0x85, 0x86, 0x87, 0x88, 0x89, 0x8A, 0x8B, 0x8C, 0x8D, 0x8E, 0x8F] : List Byte).map
      (fun op => decodes true true [op, 0x12, 0x34, 0x56]) =
    [some (.bra 0x12, [0x34, 0x56]),
     some (.staDpIndX 0x12, [0x34, 0x56]),
     some (.brl 0x3412, [0x56]),
     some (.staSr 0x12, [0x34, 0x56]),
     some (.styDp 0x12, [0x34, 0x56]),
     some (.staDp 0x12, [0x34, 0x56]),
     some (.stxDp 0x12, [0x34, 0x56]),
     some (.staDpIndL 0x12, [0x34, 0x56]),
     some (.dey, [0x12, 0x34, 0x56]),
     some (.bitImm (.byte 0x12), [0x34, 0x56]),
     some (.txa, [0x12, 0x34, 0x56]),
     some (.phb, [0x12, 0x34, 0x56]),
     some (.styAbs 0x3412, [0x56]),
     some (.staAbs 0x3412, [0x56]),
     some (.stxAbs 0x3412, [0x56]),
     some (.staLong 0x563412, [])] := by decide

theorem test_decode_row_9 :
    ([0x90, 0x91, 0x92, 0x93, 0x94, 0x95, 0x96, 0x97, 0x98, 0x99, 0x9A, 0x9B, 0x9C, 0x9D, 0x9E, 0x9F] : List Byte).map
      (fun op => decodes true true [op, 0x12, 0x34, 0x56]) =
    [some (.bcc 0x12, [0x34, 0x56]),
     some (.staDpIndY 0x12, [0x34, 0x56]),
     some (.staDpInd 0x12, [0x34, 0x56]),
     some (.staSrIndY 0x12, [0x34, 0x56]),
     some (.styDpX 0x12, [0x34, 0x56]),
     some (.staDpX 0x12, [0x34, 0x56]),
     some (.stxDpY 0x12, [0x34, 0x56]),
     some (.staDpIndLY 0x12, [0x34, 0x56]),
     some (.tya, [0x12, 0x34, 0x56]),
     some (.staAbsY 0x3412, [0x56]),
     some (.txs, [0x12, 0x34, 0x56]),
     some (.txy, [0x12, 0x34, 0x56]),
     some (.stzAbs 0x3412, [0x56]),
     some (.staAbsX 0x3412, [0x56]),
     some (.stzAbsX 0x3412, [0x56]),
     some (.staLongX 0x563412, [])] := by decide

theorem test_decode_row_A :
    ([0xA0, 0xA1, 0xA2, 0xA3, 0xA4, 0xA5, 0xA6, 0xA7, 0xA8, 0xA9, 0xAA, 0xAB, 0xAC, 0xAD, 0xAE, 0xAF] : List Byte).map
      (fun op => decodes true true [op, 0x12, 0x34, 0x56]) =
    [some (.ldyImm (.byte 0x12), [0x34, 0x56]),
     some (.ldaDpIndX 0x12, [0x34, 0x56]),
     some (.ldxImm (.byte 0x12), [0x34, 0x56]),
     some (.ldaSr 0x12, [0x34, 0x56]),
     some (.ldyDp 0x12, [0x34, 0x56]),
     some (.ldaDp 0x12, [0x34, 0x56]),
     some (.ldxDp 0x12, [0x34, 0x56]),
     some (.ldaDpIndL 0x12, [0x34, 0x56]),
     some (.tay, [0x12, 0x34, 0x56]),
     some (.ldaImm (.byte 0x12), [0x34, 0x56]),
     some (.tax, [0x12, 0x34, 0x56]),
     some (.plb, [0x12, 0x34, 0x56]),
     some (.ldyAbs 0x3412, [0x56]),
     some (.ldaAbs 0x3412, [0x56]),
     some (.ldxAbs 0x3412, [0x56]),
     some (.ldaLong 0x563412, [])] := by decide

theorem test_decode_row_B :
    ([0xB0, 0xB1, 0xB2, 0xB3, 0xB4, 0xB5, 0xB6, 0xB7, 0xB8, 0xB9, 0xBA, 0xBB, 0xBC, 0xBD, 0xBE, 0xBF] : List Byte).map
      (fun op => decodes true true [op, 0x12, 0x34, 0x56]) =
    [some (.bcs 0x12, [0x34, 0x56]),
     some (.ldaDpIndY 0x12, [0x34, 0x56]),
     some (.ldaDpInd 0x12, [0x34, 0x56]),
     some (.ldaSrIndY 0x12, [0x34, 0x56]),
     some (.ldyDpX 0x12, [0x34, 0x56]),
     some (.ldaDpX 0x12, [0x34, 0x56]),
     some (.ldxDpY 0x12, [0x34, 0x56]),
     some (.ldaDpIndLY 0x12, [0x34, 0x56]),
     some (.clv, [0x12, 0x34, 0x56]),
     some (.ldaAbsY 0x3412, [0x56]),
     some (.tsx, [0x12, 0x34, 0x56]),
     some (.tyx, [0x12, 0x34, 0x56]),
     some (.ldyAbsX 0x3412, [0x56]),
     some (.ldaAbsX 0x3412, [0x56]),
     some (.ldxAbsY 0x3412, [0x56]),
     some (.ldaLongX 0x563412, [])] := by decide

theorem test_decode_row_C :
    ([0xC0, 0xC1, 0xC2, 0xC3, 0xC4, 0xC5, 0xC6, 0xC7, 0xC8, 0xC9, 0xCA, 0xCB, 0xCC, 0xCD, 0xCE, 0xCF] : List Byte).map
      (fun op => decodes true true [op, 0x12, 0x34, 0x56]) =
    [some (.cpyImm (.byte 0x12), [0x34, 0x56]),
     some (.cmpDpIndX 0x12, [0x34, 0x56]),
     some (.rep 0x12, [0x34, 0x56]),
     some (.cmpSr 0x12, [0x34, 0x56]),
     some (.cpyDp 0x12, [0x34, 0x56]),
     some (.cmpDp 0x12, [0x34, 0x56]),
     some (.decDp 0x12, [0x34, 0x56]),
     some (.cmpDpIndL 0x12, [0x34, 0x56]),
     some (.iny, [0x12, 0x34, 0x56]),
     some (.cmpImm (.byte 0x12), [0x34, 0x56]),
     some (.dex, [0x12, 0x34, 0x56]),
     some (.wai, [0x12, 0x34, 0x56]),
     some (.cpyAbs 0x3412, [0x56]),
     some (.cmpAbs 0x3412, [0x56]),
     some (.decAbs 0x3412, [0x56]),
     some (.cmpLong 0x563412, [])] := by decide

theorem test_decode_row_D :
    ([0xD0, 0xD1, 0xD2, 0xD3, 0xD4, 0xD5, 0xD6, 0xD7, 0xD8, 0xD9, 0xDA, 0xDB, 0xDC, 0xDD, 0xDE, 0xDF] : List Byte).map
      (fun op => decodes true true [op, 0x12, 0x34, 0x56]) =
    [some (.bne 0x12, [0x34, 0x56]),
     some (.cmpDpIndY 0x12, [0x34, 0x56]),
     some (.cmpDpInd 0x12, [0x34, 0x56]),
     some (.cmpSrIndY 0x12, [0x34, 0x56]),
     some (.pei 0x12, [0x34, 0x56]),
     some (.cmpDpX 0x12, [0x34, 0x56]),
     some (.decDpX 0x12, [0x34, 0x56]),
     some (.cmpDpIndLY 0x12, [0x34, 0x56]),
     some (.cld, [0x12, 0x34, 0x56]),
     some (.cmpAbsY 0x3412, [0x56]),
     some (.phx, [0x12, 0x34, 0x56]),
     some (.stp, [0x12, 0x34, 0x56]),
     some (.jmlInd 0x3412, [0x56]),
     some (.cmpAbsX 0x3412, [0x56]),
     some (.decAbsX 0x3412, [0x56]),
     some (.cmpLongX 0x563412, [])] := by decide

theorem test_decode_row_E :
    ([0xE0, 0xE1, 0xE2, 0xE3, 0xE4, 0xE5, 0xE6, 0xE7, 0xE8, 0xE9, 0xEA, 0xEB, 0xEC, 0xED, 0xEE, 0xEF] : List Byte).map
      (fun op => decodes true true [op, 0x12, 0x34, 0x56]) =
    [some (.cpxImm (.byte 0x12), [0x34, 0x56]),
     some (.sbcDpIndX 0x12, [0x34, 0x56]),
     some (.sep 0x12, [0x34, 0x56]),
     some (.sbcSr 0x12, [0x34, 0x56]),
     some (.cpxDp 0x12, [0x34, 0x56]),
     some (.sbcDp 0x12, [0x34, 0x56]),
     some (.incDp 0x12, [0x34, 0x56]),
     some (.sbcDpIndL 0x12, [0x34, 0x56]),
     some (.inx, [0x12, 0x34, 0x56]),
     some (.sbcImm (.byte 0x12), [0x34, 0x56]),
     some (.nop, [0x12, 0x34, 0x56]),
     some (.xba, [0x12, 0x34, 0x56]),
     some (.cpxAbs 0x3412, [0x56]),
     some (.sbcAbs 0x3412, [0x56]),
     some (.incAbs 0x3412, [0x56]),
     some (.sbcLong 0x563412, [])] := by decide

theorem test_decode_row_F :
    ([0xF0, 0xF1, 0xF2, 0xF3, 0xF4, 0xF5, 0xF6, 0xF7, 0xF8, 0xF9, 0xFA, 0xFB, 0xFC, 0xFD, 0xFE, 0xFF] : List Byte).map
      (fun op => decodes true true [op, 0x12, 0x34, 0x56]) =
    [some (.beq 0x12, [0x34, 0x56]),
     some (.sbcDpIndY 0x12, [0x34, 0x56]),
     some (.sbcDpInd 0x12, [0x34, 0x56]),
     some (.sbcSrIndY 0x12, [0x34, 0x56]),
     some (.pea 0x3412, [0x56]),
     some (.sbcDpX 0x12, [0x34, 0x56]),
     some (.incDpX 0x12, [0x34, 0x56]),
     some (.sbcDpIndLY 0x12, [0x34, 0x56]),
     some (.sed, [0x12, 0x34, 0x56]),
     some (.sbcAbsY 0x3412, [0x56]),
     some (.plx, [0x12, 0x34, 0x56]),
     some (.xce, [0x12, 0x34, 0x56]),
     some (.jsrIndX 0x3412, [0x56]),
     some (.sbcAbsX 0x3412, [0x56]),
     some (.incAbsX 0x3412, [0x56]),
     some (.sbcLongX 0x563412, [])] := by decide

/-- The twelve immediates with two operand bytes, under P.M = P.X = 0 (30_encoding.md R102). -/
theorem test_decode_wide_immediates :
    ([0x09, 0x29, 0x49, 0x69, 0x89, 0xA0, 0xA2, 0xA9, 0xC0, 0xC9, 0xE0, 0xE9] : List Byte).map
      (fun op => decodes false false [op, 0x12, 0x34]) =
    [some (.oraImm (.word 0x3412), []),
     some (.andImm (.word 0x3412), []),
     some (.eorImm (.word 0x3412), []),
     some (.adcImm (.word 0x3412), []),
     some (.bitImm (.word 0x3412), []),
     some (.ldyImm (.word 0x3412), []),
     some (.ldxImm (.word 0x3412), []),
     some (.ldaImm (.word 0x3412), []),
     some (.cpyImm (.word 0x3412), []),
     some (.cmpImm (.word 0x3412), []),
     some (.cpxImm (.word 0x3412), []),
     some (.sbcImm (.word 0x3412), [])] := by decide

/-- A table word and a fetched word are the same instruction. -/
theorem test_table_words : decodeTableWord 8 0xEA = some .nop ∧ decodeTableWord 24 0x00108D = some (.staAbs 0x0010) ∧
    decodeTableWord 32 0x7E01005C = some (.jmlLong 0x7E0100) ∧ decodeTableWord 8 0xA9 = some (.ldaImm (.byte 0x00)) := by decide

/-- The first step after reset runs the placed word. -/
theorem test_fetch_word : stepped (State.reset.withFetchWord 16 0x10E2) (fun t => flag t.p .x && t.pc == 0x8002 && t.cycles == 3) &&
    stepped (State.reset.withFetchWord 8 0xE8) (fun t => t.x == 0x0001 && t.cycles == 2) = true := by decide

/-! The bus (95_test_vectors.md V-M*, E4 to E10) -/

theorem test_VM1_VM2 : mapAddress .schemeA 0x001FFF = (.wram, 0x01FFF) ∧ mapAddress .schemeB 0x3F1FFF = (.wram, 0x01FFF) := by
  decide
theorem test_VM3 : mapAddress .schemeA 0x002000 = (.io, 0x2000) ∧ mapAddress .schemeB 0x005FFF = (.io, 0x5FFF) := by decide
theorem test_VM4_VM5 : mapAddress .schemeA 0x7F0000 = (.wram, 0x10000) ∧ mapAddress .schemeB 0xFE1234 = (.wram, 0x01234) ∧
    mapAddress .schemeA 0xFFFFFF = (.wram, 0x1FFFF) := by decide
theorem test_VM6 : mapAddress .schemeA 0x006000 = (.openBus, 0) ∧ mapAddress .schemeA 0x3F7FFF = (.openBus, 0) := by decide
theorem test_VM7 : mapAddress .schemeA 0x008000 = (.rom, 0x000000) ∧ mapAddress .schemeA 0x018000 = (.rom, 0x008000) ∧
    mapAddress .schemeA 0x7DFFFF = (.rom, 0x3EFFFF) := by decide
theorem test_VM8_VM9 : mapAddress .schemeA 0x400000 = (.rom, 0x200000) ∧ mapAddress .schemeA 0x6F7FFF = (.rom, 0x37FFFF) ∧
    mapAddress .schemeA 0x700000 = (.sram, 0x00000) ∧ mapAddress .schemeA 0x7D7FFF = (.sram, 0x6FFFF) := by decide
theorem test_VM10_VM11 : mapAddress .schemeB 0x006000 = (.openBus, 0) ∧ mapAddress .schemeB 0x1F7FFF = (.openBus, 0) ∧
    mapAddress .schemeB 0x206000 = (.sram, 0x00000) ∧ mapAddress .schemeB 0x3F7FFF = (.sram, 0x3FFFF) := by decide
theorem test_VM12_VM13 : mapAddress .schemeB 0x008000 = (.rom, 0x008000) ∧ mapAddress .schemeB 0x3FFFFF = (.rom, 0x3FFFFF) ∧
    mapAddress .schemeB 0x400000 = (.rom, 0x000000) ∧ mapAddress .schemeB 0x7DFFFF = (.rom, 0x3DFFFF) := by decide
theorem test_VM14 : mapAddress .schemeA 0x808000 = (.rom, 0x000000) ∧ mapAddress .schemeB 0x808000 = (.rom, 0x008000) := by decide
theorem test_VM15 : (boot.bus.read 0x018000).1 = 0xFF := by decide
theorem test_VM16 : ((HostAction.pokeSram 0x0FFFF 0x11).apply boot.bus).peek 0x7D7FFF = some 0x11 ∧
    ((HostAction.pokeSram 0x0FFFF 0x11).apply boot.bus).peek 0x717FFF = some 0x11 := by decide
theorem test_VM17 : ((put boot [(0xFFFF, 0x34), (0x10000, 0x12)]).bus.read16 0x7EFFFF).1 = 0x1234 := by decide
theorem test_VM18 : ((put boot [(0x1FFFF, 0xCD), (0x00000, 0xAB)]).bus.read16 0xFFFFFF).1 = 0xABCD := by decide
theorem test_VM19 : boot.bus.write 0x006000 0x12 = boot.bus ∧ (boot.bus.read 0x006000).1 = 0xFF := by decide
theorem test_E5 : (((rom boot [(0, 0x18)]).bus.write 0x008000 0x99).read 0x008000).1 = 0x18 := by decide
theorem test_E6 : (boot.bus.read 0x002100).1 = 0xFF ∧ (boot.bus.read 0x005FFF).1 = 0xFF ∧ (boot.bus.read 0x004210).1 = 0x02 ∧
    (boot.bus.read 0x004212).1 = 0x00 := by decide
theorem test_E9 : (boot.bus.write 0x000042 0x42).peek 0x7E0042 = some 0x42 ∧
    (boot.bus.write 0x000042 0x42).peek 0x3F0042 = some 0x42 ∧ (boot.bus.write 0x000042 0x42).peek 0x800042 = some 0x42 := by decide
/-- The copy writes what it read, lowest byte first; the second destination has no entry (V-M20, without its callback). -/
theorem test_copy : ((put boot [(0, 0x01), (1, 0x02)]).bus.dmaCopy 0x7E0000 0x7E0010 2).peek 0x000011 = some 0x02 := by decide
/-- The four header bytes of E7, as score(h) sees them: complement 0x5555, checksum 0xAAAA. -/
theorem test_E7 : headerScore ((List.replicate 0x1C 0x00 ++ [0x55, 0x55, 0xAA, 0xAA])) 0 = 4 ∧
    headerScore (List.replicate 0x20 0x00) 0 = 0 := by decide
theorem test_detect_tie : detectScheme [] = .schemeA := by decide

/-! One step: loads, stores, transfers, block moves (V-L*, E1, and by hand from the rules) -/

theorem test_E1 : after { boot with a := 0x1234 } [0xA9, 0x00] (fun t =>
    t.a == 0x1200 && flag t.p .z && !flag t.p .n && t.cycles == 2) = true := by decide
theorem test_VL1 : after { boot with p := 0x14 } [0xA9, 0x00, 0x80] (fun t =>
    t.a == 0x8000 && flag t.p .n && !flag t.p .z && t.cycles == 3) = true := by decide
theorem test_VL2 : after (put { boot with d := 0x0001, a := 0xAA00 } [(0x11, 0x55)]) [0xA5, 0x10] (fun t =>
    t.a == 0xAA55 && t.cycles == 4) = true := by decide
theorem test_VL3 : after (put { boot with dbr := 0x7E, x := 0x0001 } [(0x10000, 0x77)]) [0xBD, 0xFF, 0xFF] (fun t =>
    loByte t.a == 0x77 && t.cycles == 5) = true := by decide
theorem test_VL4 : after (put { boot with p := 0x24, dbr := 0x7E, x := 0x0001 } [(0x0101, 0x01)]) [0xBD, 0x00, 0x01] (fun t =>
    loByte t.a == 0x01 && t.cycles == 5) = true := by decide
theorem test_VL5 : after (put { boot with dbr := 0x7E, y := 0x0005 } [(0x21, 0x30), (0x3005, 0x9A)]) [0xB1, 0x20] (fun t =>
    loByte t.a == 0x9A && flag t.p .n && t.cycles == 5) = true := by decide
theorem test_VL6 : after (rom (put { boot with pc := 0x8100 } [(0x30, 0x00), (0x31, 0x80), (0x32, 0x00)]) [(0, 0x18)]) [0xA7, 0x30] (fun t =>
    loByte t.a == 0x18 && t.cycles == 6) = true := by decide
theorem test_VL7 : after { boot with p := 0x14, d := 0xFF00, a := 0xABCD } [0x85, 0xFF] (fun t =>
    wramAt t 0 == 0xAB && t.cycles == 4) = true := by decide
theorem test_VL8 : after (put { boot with sp := 0x01F0 } [(0x01F3, 0x42)]) [0xA3, 0x03] (fun t =>
    loByte t.a == 0x42 && t.cycles == 4) = true := by decide
theorem test_VL9 : after (put boot [(0x10, 0xFF), (0x11, 0xFF)]) [0x64, 0x10] (fun t =>
    wramAt t 0x10 == 0x00 && wramAt t 0x11 == 0xFF && t.cycles == 3) = true := by decide
theorem test_VL10 : after { boot with x := 0x0080 } [0x9A] (fun t =>
    t.sp == 0x0180 && t.p == 0x34 && t.cycles == 2) = true := by decide
theorem test_VL11 : after { boot with e := false, a := 0x1FFF } [0x1B] (fun t =>
    t.sp == 0x1FFF && t.cycles == 2) = true := by decide
theorem test_VL12 : after { boot with a := 0x00FF } [0xEB] (fun t =>
    t.a == 0xFF00 && flag t.p .z && !flag t.p .n && t.cycles == 3) = true := by decide
theorem test_VL13 : after { boot with p := 0x24, a := 0xAB12 } [0xAA] (fun t =>
    t.x == 0xAB12 && flag t.p .n && t.cycles == 2) = true := by decide
theorem test_VL14 : after { boot with p := 0x14, x := 0x0034, a := 0xFFFF } [0x8A] (fun t =>
    t.a == 0x0034 && !flag t.p .n && !flag t.p .z && t.cycles == 2) = true := by decide
theorem test_VL15 : after { boot with sp := 0x01F0 } [0xBA] (fun t =>
    t.x == 0x00F0 && flag t.p .n && t.cycles == 2) = true := by decide
theorem test_VL16 : after { boot with d := 0x1234 } [0x7B] (fun t =>
    t.a == 0x1234 && !flag t.p .n && !flag t.p .z && t.cycles == 2) = true := by decide
theorem test_VL17 : after (put { native with x := 0x1000, y := 0x2000, a := 0x0001 } [(0x1000, 0xAA)]) [0x54, 0x7F, 0x7E] (fun t =>
    wramAt t 0x12000 == 0xAA && t.a == 0x0000 && t.x == 0x1001 && t.y == 0x2001 && t.dbr == 0x7F && t.pc == 0x8000 && t.cycles == 7) = true := by decide
theorem test_VL18 : after { boot with x := 0x00FF, y := 0x00FF } [0x54, 0x7E, 0x7E] (fun t =>
    t.x == 0x0000 && t.y == 0x0000 && t.a == 0xFFFF && t.pc == 0x8003 && t.cycles == 7) = true := by decide
theorem test_VL19 : after (put { native with x := 0x1001, y := 0x2001, a := 0x0001 } [(0x1001, 0x77)]) [0x44, 0x7F, 0x7E] (fun t =>
    t.x == 0x1000 && t.y == 0x2000 && t.a == 0x0000 && t.dbr == 0x7F && wramAt t 0x12001 == 0x77 && t.cycles == 7) = true := by decide
/-- R145: bank DBR. -/
theorem test_lda_dp_indirect : after (put { boot with dbr := 0x7F } [(0x20, 0x34), (0x21, 0x12), (0x11234, 0x81)]) [0xB2, 0x20] (fun t =>
    loByte t.a == 0x81 && flag t.p .n && t.cycles == 5) = true := by decide
/-- R146. -/
theorem test_lda_dp_indexed_indirect : after (put { boot with x := 0x0002, dbr := 0x7E } [(0x22, 0x34), (0x23, 0x12), (0x1234, 0x05)]) [0xA1, 0x20] (fun t =>
    loByte t.a == 0x05 && t.cycles == 6) = true := by decide
/-- R150: the index carries into the bank. -/
theorem test_lda_dp_long_indexed : after (put { boot with y := 0x0001 } [(0x20, 0xFF), (0x21, 0xFF), (0x22, 0x7E), (0x10000, 0x44)]) [0xB7, 0x20] (fun t =>
    loByte t.a == 0x44 && t.cycles == 6) = true := by decide
/-- R157: the pointer at S + 2. -/
theorem test_lda_sr_indirect_indexed : after (put { boot with y := 0x0003, dbr := 0x7F } [(0x0201, 0x10), (0x0202, 0x00), (0x10013, 0x66)]) [0xB3, 0x02] (fun t =>
    loByte t.a == 0x66 && t.cycles == 7) = true := by decide
/-- R151, R148: low byte first. -/
theorem test_lda_abs_wide : after (put { boot with p := 0x14, dbr := 0x7E } [(0x0010, 0xCD), (0x0011, 0xAB)]) [0xAD, 0x10, 0x00] (fun t =>
    t.a == 0xABCD && t.cycles == 5) = true := by decide
/-- R154. -/
theorem test_lda_long : after (put boot [(0x12345, 0x09)]) [0xAF, 0x45, 0x23, 0x7F] (fun t =>
    loByte t.a == 0x09 && t.cycles == 5) = true := by decide
/-- R155. -/
theorem test_lda_long_indexed : after (put { boot with x := 0x0001 } [(0x10000, 0x0A)]) [0xBF, 0xFF, 0xFF, 0x7E] (fun t =>
    loByte t.a == 0x0A && t.cycles == 5) = true := by decide
/-- R153, R466: no page crossed. -/
theorem test_lda_abs_y : after (put { boot with y := 0x0010, dbr := 0x7E } [(0x1010, 0x0B)]) [0xB9, 0x00, 0x10] (fun t =>
    loByte t.a == 0x0B && t.cycles == 4) = true := by decide
/-- R143: modulo 2^16 in bank 0. -/
theorem test_lda_dp_x_wraps : after (put { native with d := 0xFFF0, x := 0x0020, p := 0x24 } [(0x0015, 0x3C)]) [0xB5, 0x05] (fun t =>
    loByte t.a == 0x3C && t.cycles == 5) = true := by decide
/-- R181. -/
theorem test_ldx : after { native with x := 0x1111 } [0xA2, 0x00, 0x80] (fun t =>
    t.x == 0x8000 && flag t.p .n && t.cycles == 3) = true := by decide
/-- R144, R181. -/
theorem test_ldx_dp_y : after (put { boot with y := 0x0002 } [(0x12, 0x00)]) [0xB6, 0x10] (fun t =>
    t.x == 0x0000 && flag t.p .z && t.cycles == 4) = true := by decide
/-- R182. -/
theorem test_ldy : after (put { boot with dbr := 0x7E } [(0x1234, 0x99)]) [0xAC, 0x34, 0x12] (fun t =>
    t.y == 0x0099 && flag t.p .n && t.cycles == 4) = true := by decide
/-- R184. -/
theorem test_stx_wide : after { native with x := 0x1234 } [0x86, 0x10] (fun t =>
    wramAt t 0x10 == 0x34 && wramAt t 0x11 == 0x12 && t.cycles == 4) = true := by decide
/-- R185. -/
theorem test_sty : after { boot with y := 0x00AB, dbr := 0x7F } [0x8C, 0x00, 0x10] (fun t =>
    wramAt t 0x11000 == 0xAB && t.cycles == 4) = true := by decide
/-- R188. -/
theorem test_tay : after { boot with a := 0x1280 } [0xA8] (fun t =>
    t.y == 0x0080 && flag t.p .n) = true := by decide
/-- R190, R33. -/
theorem test_tya_keeps_high : after { boot with a := 0x1234, y := 0x0056 } [0x98] (fun t =>
    t.a == 0x1256) = true := by decide
/-- R191. -/
theorem test_txy_tyx : after { native with x := 0x8001 } [0x9B] (fun t =>
    t.y == 0x8001 && flag t.p .n) = true := by decide
/-- R192. -/
theorem test_tyx : after { native with x := 0x8001 } [0xBB] (fun t =>
    t.x == 0x0000 && flag t.p .z) = true := by decide
/-- R195: 16 bits whatever P.M is. -/
theorem test_tcd : after { boot with a := 0x8000 } [0x5B] (fun t =>
    t.d == 0x8000 && flag t.p .n) = true := by decide
/-- R198. -/
theorem test_tsc : after { boot with sp := 0x01FF } [0x3B] (fun t =>
    t.a == 0x01FF && !flag t.p .n) = true := by decide

/-! One step: arithmetic and logic (V-A*) -/

theorem test_VA1 : after { boot with a := 0x0050 } [0x69, 0x50] (fun t =>
    t.a == 0x00A0 && t.p == 0xF4 && t.cycles == 2) = true := by decide
theorem test_VA2 : after { boot with a := 0x00FF } [0x69, 0x01] (fun t =>
    t.a == 0x0000 && t.p == 0x37 && t.cycles == 2) = true := by decide
theorem test_VA3 : after { boot with p := 0x14, a := 0x7FFF } [0x69, 0x01, 0x00] (fun t =>
    t.a == 0x8000 && t.p == 0xD4 && t.cycles == 3) = true := by decide
theorem test_VA5 : after { boot with p := 0x3C, a := 0x0009 } [0x69, 0x01] (fun t =>
    t.a == 0x000A && t.cycles == 2) = true := by decide
theorem test_VA6 : after { boot with p := 0x15, a := 0xFFFF } [0x69, 0xFF, 0xFF] (fun t =>
    t.a == 0xFFFF && t.p == 0x95 && t.cycles == 3) = true := by decide
theorem test_VA7 : after { boot with p := 0x35 } [0xE9, 0x01] (fun t =>
    t.a == 0x00FF && t.p == 0xB4 && t.cycles == 2) = true := by decide
theorem test_VA8 : after { boot with p := 0x35, a := 0x0080 } [0xE9, 0x01] (fun t =>
    t.a == 0x007F && t.p == 0x75 && t.cycles == 2) = true := by decide
theorem test_VA9 : after { boot with p := 0x14 } [0xE9, 0x00, 0x00] (fun t =>
    t.a == 0xFFFF && t.p == 0x94 && t.cycles == 3) = true := by decide
theorem test_VA10 : after { boot with p := 0x35, a := 0x007F } [0xE9, 0xFF] (fun t =>
    t.a == 0x0080 && t.p == 0xF4 && t.cycles == 2) = true := by decide
theorem test_VA11 : after { boot with a := 0x1240 } [0xC9, 0x40] (fun t =>
    t.a == 0x1240 && t.p == 0x37 && t.cycles == 2) = true := by decide
theorem test_VA12 : after { boot with p := 0x24, x := 0x0001 } [0xE0, 0x02, 0x00] (fun t =>
    t.p == 0xA4 && t.cycles == 3) = true := by decide
theorem test_VA13 : after { boot with p := 0xF4 } [0x89, 0x80] (fun t =>
    t.p == 0xF6 && t.cycles == 2) = true := by decide
theorem test_VA14 : after (put { boot with a := 0x0040 } [(0x10, 0x40)]) [0x24, 0x10] (fun t =>
    t.p == 0x74 && t.cycles == 3) = true := by decide
theorem test_VA15 : after (put { boot with p := 0x14, a := 0x0001 } [(0x11, 0x80)]) [0x24, 0x10] (fun t =>
    t.p == 0x96 && t.cycles == 4) = true := by decide
theorem test_VA16 : after (put { boot with p := 0x14 } [(0x10, 0xFF), (0x11, 0xFF)]) [0xE6, 0x10] (fun t =>
    wramAt t 0x10 == 0x00 && wramAt t 0x11 == 0x00 && flag t.p .z && t.cycles == 7) = true := by decide
theorem test_VA17 : after (put { boot with p := 0x14, x := 0x0001 } [(0x0201, 0x01)]) [0xFE, 0x00, 0x02] (fun t =>
    wramAt t 0x0201 == 0x02 && wramAt t 0x0202 == 0x00 && t.cycles == 9) = true := by decide
theorem test_VA18 : after (put { boot with p := 0x14, d := 0x0001, x := 0x0001 } [(0x13, 0x40)]) [0x16, 0x10] (fun t =>
    wramAt t 0x12 == 0x00 && wramAt t 0x13 == 0x80 && !flag t.p .c && flag t.p .n && t.cycles == 9) = true := by decide
theorem test_VA19 : after { boot with p := 0x14, a := 0x8000 } [0x0A] (fun t =>
    t.a == 0x0000 && t.p == 0x17 && t.cycles == 2) = true := by decide
theorem test_VA20 : after { boot with a := 0x3401 } [0x6A] (fun t =>
    t.a == 0x3400 && t.p == 0x37 && t.cycles == 2) = true := by decide
theorem test_VA21 : after { boot with p := 0x35 } [0x2A] (fun t =>
    t.a == 0x0001 && t.p == 0x34 && t.cycles == 2) = true := by decide
theorem test_VA22 : after (put boot [(0x10, 0x81)]) [0x46, 0x10] (fun t =>
    wramAt t 0x10 == 0x40 && t.p == 0x35 && t.cycles == 5) = true := by decide
theorem test_VA23 : after (put { boot with a := 0x0003 } [(0x10, 0x04)]) [0x04, 0x10] (fun t =>
    wramAt t 0x10 == 0x07 && t.p == 0x36 && t.cycles == 5) = true := by decide
theorem test_VA24 : after (put { boot with a := 0x0003 } [(0x10, 0x07)]) [0x14, 0x10] (fun t =>
    wramAt t 0x10 == 0x04 && t.p == 0x34 && t.cycles == 5) = true := by decide
theorem test_VA25 : after boot [0xCA] (fun t =>
    t.x == 0x00FF && flag t.p .n && t.cycles == 2) = true := by decide
theorem test_VA26 : after { boot with a := 0x12F0 } [0x29, 0x0F] (fun t =>
    t.a == 0x1200 && flag t.p .z && t.cycles == 2) = true := by decide
theorem test_VA27 : after boot [0x49, 0x80] (fun t =>
    t.a == 0x0080 && flag t.p .n && t.cycles == 2) = true := by decide
/-- R223. -/
theorem test_ora : after { native with a := 0x1200 } [0x09, 0x34, 0x80] (fun t =>
    t.a == 0x9234 && flag t.p .n && t.cycles == 3) = true := by decide
/-- R227. -/
theorem test_cpy : after { boot with y := 0x0010 } [0xC0, 0x11] (fun t =>
    !flag t.p .c && flag t.p .n && t.y == 0x0010) = true := by decide
/-- R230. -/
theorem test_dec_memory : after (put { boot with dbr := 0x7E } [(0x1234, 0x00)]) [0xCE, 0x34, 0x12] (fun t =>
    wramAt t 0x1234 == 0xFF && flag t.p .n && t.cycles == 6) = true := by decide
/-- R230 at 8 bits. -/
theorem test_dec_a : after { boot with a := 0x1200 } [0x3A] (fun t =>
    t.a == 0x12FF) = true := by decide
/-- R229 at 16 bits. -/
theorem test_inc_a : after { native with a := 0xFFFF } [0x1A] (fun t =>
    t.a == 0x0000 && flag t.p .z) = true := by decide
/-- R231. -/
theorem test_inx : after { native with x := 0x00FF } [0xE8] (fun t =>
    t.x == 0x0100) = true := by decide
/-- R232. -/
theorem test_iny_wraps : after { boot with y := 0x00FF } [0xC8] (fun t =>
    t.y == 0x0000 && flag t.p .z) = true := by decide
/-- R234. -/
theorem test_dey : after native [0x88] (fun t =>
    t.y == 0xFFFF && flag t.p .n) = true := by decide
/-- R237. -/
theorem test_rol_wide : after (put { native with p := 0x05 } [(0x11, 0x80)]) [0x26, 0x10] (fun t =>
    wramAt t 0x10 == 0x01 && wramAt t 0x11 == 0x00 && flag t.p .c && t.cycles == 7) = true := by decide
/-- R238. -/
theorem test_ror_memory : after (put { boot with p := 0x35 } [(0x10, 0x00)]) [0x66, 0x10] (fun t =>
    wramAt t 0x10 == 0x80 && !flag t.p .c && flag t.p .n) = true := by decide

/-! One step: control flow (V-C*) -/

theorem test_VC1 : after { boot with e := false, pc := 0x8005 } [0xD0, 0xFB] (fun t =>
    t.pc == 0x8002 && t.cycles == 3) = true := by decide
theorem test_VC2 : after boot [0xF0, 0x10] (fun t =>
    t.pc == 0x8002 && t.cycles == 2) = true := by decide
theorem test_VC3 : after { boot with pc := 0x80FD } [0x90, 0x01] (fun t =>
    t.pc == 0x8100 && t.cycles == 4) = true := by decide
theorem test_VC4 : after { boot with pc := 0x80FD, e := false } [0x90, 0x01] (fun t =>
    t.pc == 0x8100 && t.cycles == 3) = true := by decide
theorem test_VC5 : after { boot with pc := 0x80F0 } [0x80, 0x20] (fun t =>
    t.pc == 0x8112 && t.cycles == 4) = true := by decide
theorem test_VC6 : after { boot with pbr := 0x01, pc := 0xFFF0 } [0x10, 0x7F] (fun t =>
    t.pc == 0x0071 && t.pbr == 0x01 && t.cycles == 4) = true := by decide
theorem test_VC7 : after boot [0x82, 0x00, 0x80] (fun t =>
    t.pc == 0x0003 && t.cycles == 4) = true := by decide
theorem test_VC8 : after (put { boot with pbr := 0x01 } [(0x10, 0x34), (0x11, 0x12)]) [0x6C, 0x10, 0x00] (fun t =>
    t.pc == 0x1234 && t.pbr == 0x01 && t.cycles == 5) = true := by decide
theorem test_VC9 : after (rom { boot with x := 0x0002 } [(0x0102, 0x00), (0x0103, 0x90)]) [0x7C, 0x00, 0x81] (fun t =>
    t.pc == 0x9000 && t.cycles == 6) = true := by decide
theorem test_VC10 : after (put boot [(0x40, 0x00), (0x41, 0x01), (0x42, 0x7E)]) [0xDC, 0x40, 0x00] (fun t =>
    t.pbr == 0x7E && t.pc == 0x0100 && t.cycles == 6) = true := by decide
theorem test_VC11_call : after boot [0x20, 0x00, 0x90] (fun t =>
    wramAt t 0x1FF == 0x80 && wramAt t 0x1FE == 0x02 && t.sp == 0x01FD && t.pc == 0x9000 && t.cycles == 6) = true := by decide
theorem test_VC11_return : after (put { boot with sp := 0x01FD, pc := 0x9000 } [(0x1FF, 0x80), (0x1FE, 0x02)]) [0x60] (fun t =>
    t.pc == 0x8003 && t.sp == 0x01FF && t.cycles == 6) = true := by decide
theorem test_VC12_call : after boot [0x22, 0x00, 0x80, 0x01] (fun t =>
    wramAt t 0x1FF == 0x00 && wramAt t 0x1FE == 0x80 && wramAt t 0x1FD == 0x03 && t.sp == 0x01FC && t.pbr == 0x01 && t.pc == 0x8000 && t.cycles == 8) = true := by decide
theorem test_VC12_return : after (put { boot with sp := 0x01FC, pbr := 0x01 } [(0x1FE, 0x80), (0x1FD, 0x03)]) [0x6B] (fun t =>
    t.pbr == 0x00 && t.pc == 0x8004 && t.sp == 0x01FF && t.cycles == 6) = true := by decide
theorem test_VC13 : after (rom { boot with e := false, p := 0x30 } [(0x7FE7, 0xA0)]) [0x00, 0x00] (fun t =>
    wramAt t 0x1FF == 0x00 && wramAt t 0x1FE == 0x80 && wramAt t 0x1FD == 0x02 && wramAt t 0x1FC == 0x30 &&
    t.sp == 0x01FB && t.p == 0x34 && t.pc == 0xA000 && t.pbr == 0x00 && t.cycles == 8) = true := by decide
theorem test_VC14 : after (rom boot [(0x7FFF, 0xB0)]) [0x00, 0x00] (fun t =>
    wramAt t 0x1FC == 0x34 && t.sp == 0x01FB && t.pc == 0xB000 && t.cycles == 7) = true := by decide
theorem test_VC15 : after (put { boot with sp := 0x01FB, pc := 0xB000 } [(0x1FC, 0x34), (0x1FD, 0x02), (0x1FE, 0x80)]) [0x40] (fun t =>
    t.p == 0x34 && t.pc == 0x8002 && t.pbr == 0x00 && t.sp == 0x01FF && t.cycles == 6) = true := by decide
theorem test_VC16 : after (put { boot with e := false, sp := 0x01FB } [(0x1FC, 0x30), (0x1FD, 0x02), (0x1FE, 0x80), (0x1FF, 0x01)]) [0x40] (fun t =>
    t.p == 0x30 && t.pc == 0x8002 && t.pbr == 0x01 && t.sp == 0x01FF && t.cycles == 7) = true := by decide
theorem test_VC17 : after (rom { boot with e := false } [(0x7FE5, 0xC0)]) [0x02, 0x00] (fun t =>
    t.pc == 0xC000 && t.sp == 0x01FB && t.cycles == 8) = true := by decide
/-- R261. -/
theorem test_bmi : after { boot with p := 0xB4 } [0x30, 0x10] (fun t =>
    t.pc == 0x8012) = true := by decide
/-- R262: back to itself. -/
theorem test_bvc : after boot [0x50, 0xFE] (fun t =>
    t.pc == 0x8000) = true := by decide
/-- R263. -/
theorem test_bvs_not_taken : after boot [0x70, 0x10] (fun t =>
    t.pc == 0x8002) = true := by decide
/-- R265. -/
theorem test_bcs : after { boot with p := 0x35 } [0xB0, 0x02] (fun t =>
    t.pc == 0x8004) = true := by decide
/-- R270. -/
theorem test_jmp_abs : after { boot with pbr := 0x01 } [0x4C, 0x34, 0x12] (fun t =>
    t.pc == 0x1234 && t.pbr == 0x01 && t.cycles == 3) = true := by decide
/-- R271. -/
theorem test_jml_long : after boot [0x5C, 0x00, 0x01, 0x7E] (fun t =>
    t.pc == 0x0100 && t.pbr == 0x7E && t.cycles == 4) = true := by decide
/-- R272, R163. -/
theorem test_jsr_indexed : after (rom { boot with x := 0x0002 } [(0x0102, 0x00), (0x0103, 0x90)]) [0xFC, 0x00, 0x81] (fun t =>
    t.pc == 0x9000 && wramAt t 0x1FE == 0x02 && t.cycles == 8) = true := by decide

/-! One step: the stack (V-S*, E2) -/

theorem test_VS1 : after { boot with a := 0x1234 } [0x48] (fun t =>
    wramAt t 0x1FF == 0x34 && t.sp == 0x01FE && t.cycles == 3) = true := by decide
theorem test_VS2_push : after { boot with p := 0x14, a := 0xBEEF } [0x48] (fun t =>
    wramAt t 0x1FF == 0xBE && wramAt t 0x1FE == 0xEF && t.sp == 0x01FD && t.cycles == 4) = true := by decide
theorem test_VS2_pull : after (put { boot with p := 0x14, sp := 0x01FD } [(0x1FF, 0xBE), (0x1FE, 0xEF)]) [0x68] (fun t =>
    t.a == 0xBEEF && t.sp == 0x01FF && flag t.p .n && t.cycles == 5) = true := by decide
theorem test_VS3 : after { boot with e := false, sp := 0x0000, a := 0x0077 } [0x48] (fun t =>
    wramAt t 0x0000 == 0x77 && t.sp == 0xFFFF) = true := by decide
theorem test_VS4 : after { boot with sp := 0x0100, a := 0x0066 } [0x48] (fun t =>
    wramAt t 0x0100 == 0x66 && t.sp == 0x00FF) = true := by decide
theorem test_VS5 : after (put { boot with e := false, sp := 0xFFFF } [(0x0000, 0x5A)]) [0x68] (fun t =>
    t.sp == 0x0000 && loByte t.a == 0x5A && t.cycles == 4) = true := by decide
theorem test_VS6_push : after { boot with d := 0x2100 } [0x0B] (fun t =>
    wramAt t 0x1FF == 0x21 && wramAt t 0x1FE == 0x00 && t.cycles == 4) = true := by decide
theorem test_VS6_pull : after (put { boot with sp := 0x01FD } [(0x1FF, 0x21)]) [0x2B] (fun t =>
    t.d == 0x2100 && t.sp == 0x01FF && !flag t.p .n && !flag t.p .z && t.cycles == 5) = true := by decide
theorem test_VS7 : after (put { native with x := 0x1234, sp := 0x01FE } [(0x1FF, 0x30)]) [0x28] (fun t =>
    t.p == 0x30 && t.x == 0x0034 && t.cycles == 4) = true := by decide
theorem test_VS8 : after boot [0xF4, 0x34, 0x12] (fun t =>
    wramAt t 0x1FF == 0x12 && wramAt t 0x1FE == 0x34 && t.sp == 0x01FD && t.cycles == 5) = true := by decide
theorem test_VS9 : after (put { boot with d := 0x0001 } [(0x12, 0x80)]) [0xD4, 0x10] (fun t =>
    wramAt t 0x1FF == 0x80 && wramAt t 0x1FE == 0x00 && t.cycles == 7) = true := by decide
theorem test_VS10 : after boot [0x62, 0xFD, 0xFF] (fun t =>
    wramAt t 0x1FF == 0x80 && wramAt t 0x1FE == 0x00 && t.cycles == 6) = true := by decide
theorem test_VS11 : after (put { boot with sp := 0x01FE } [(0x1FF, 0x80)]) [0xAB] (fun t =>
    t.dbr == 0x80 && flag t.p .n && t.cycles == 4) = true := by decide
theorem test_VS12_push : after { native with y := 0x1234 } [0x5A] (fun t =>
    wramAt t 0x1FF == 0x12 && wramAt t 0x1FE == 0x34 && t.cycles == 4) = true := by decide
theorem test_VS12_pull : after (put { native with sp := 0x01FD } [(0x1FF, 0x12), (0x1FE, 0x34)]) [0xFA] (fun t =>
    t.x == 0x1234 && t.sp == 0x01FF && t.cycles == 5) = true := by decide
theorem test_VS13 : after { boot with pbr := 0x01 } [0x4B] (fun t =>
    wramAt t 0x1FF == 0x01 && t.sp == 0x01FE && t.cycles == 3) = true := by decide
/-- R295. -/
theorem test_phx : after { boot with x := 0x00AB } [0xDA] (fun t =>
    wramAt t 0x1FF == 0xAB && t.cycles == 3) = true := by decide
/-- R297. -/
theorem test_php : after { boot with p := 0xB5 } [0x08] (fun t =>
    wramAt t 0x1FF == 0xB5 && t.p == 0xB5 && t.cycles == 3) = true := by decide
/-- R298. -/
theorem test_phb : after { boot with dbr := 0x7E } [0x8B] (fun t =>
    wramAt t 0x1FF == 0x7E && t.cycles == 3) = true := by decide
/-- R303. -/
theorem test_ply : after (put { boot with sp := 0x01FE } [(0x1FF, 0x80)]) [0x7A] (fun t =>
    t.y == 0x0080 && flag t.p .n && t.cycles == 4) = true := by decide

/-! One step: status and system (V-Y*, E11) -/

theorem test_VY1 : after boot [0xC2, 0x30] (fun t =>
    t.p == 0x04 && t.e && t.cycles == 3) = true := by decide
theorem test_VY2 : after { boot with p := 0x04, a := 0x5678, x := 0x1234, y := 0x00FF } [0xE2, 0x30] (fun t =>
    t.p == 0x34 && t.a == 0x5678 && t.x == 0x0034 && t.y == 0x00FF && t.cycles == 3) = true := by decide
theorem test_VY3 : after boot [0xFB] (fun t =>
    !t.e && t.p == 0x35 && t.sp == 0x01FF && t.cycles == 2) = true := by decide
theorem test_VY4 : after native [0xFB] (fun t =>
    !t.e && t.p == 0x04 && t.cycles == 2) = true := by decide
theorem test_VY5 : after { boot with p := 0x35, sp := 0x0180 } [0xFB] (fun t =>
    t.e && t.p == 0x35 && t.sp == 0x0180) = true := by decide
theorem test_E11 : after { boot with e := false, sp := 0x1234, p := 0x05, x := 0xABCD, y := 0x1200 } [0xFB] (fun t =>
    t.e && t.p == 0x34 && t.sp == 0x0134 && t.x == 0x00CD && t.y == 0x0000 && t.cycles == 2) = true := by decide
theorem test_VY6 : after boot [0x58] (fun t =>
    !flag t.p .i && t.p == 0x30 && t.cycles == 2) = true := by decide
theorem test_VY7 : after boot [0xF8] (fun t =>
    t.p == 0x3C && t.cycles == 2) = true := by decide
theorem test_VY8 : after boot [0x42, 0xEA] (fun t =>
    t.pc == 0x8002 && t.cycles == 2) = true := by decide
theorem test_VY9 : after boot [0xCB] (fun t =>
    t.waiting && t.pc == 0x8001 && t.cycles == 3) = true := by decide
theorem test_VY10 : after boot [0xDB] (fun t =>
    t.stopped && t.pc == 0x8001 && t.cycles == 3) = true := by decide
theorem test_VY11 : after { boot with p := 0x74 } [0xB8] (fun t =>
    t.p == 0x34 && t.cycles == 2) = true := by decide
/-- R310. -/
theorem test_clc : after { boot with p := 0x35 } [0x18] (fun t =>
    t.p == 0x34) = true := by decide
/-- R311. -/
theorem test_sec : after boot [0x38] (fun t =>
    t.p == 0x35) = true := by decide
/-- R313. -/
theorem test_sei : after { boot with p := 0x30 } [0x78] (fun t =>
    t.p == 0x34) = true := by decide
/-- R314. -/
theorem test_cld : after { boot with p := 0x3C } [0xD8] (fun t =>
    t.p == 0x34) = true := by decide
/-- R320. -/
theorem test_nop : after boot [0xEA] (fun t =>
    t.pc == 0x8001 && t.p == 0x34 && t.cycles == 2) = true := by decide

/-! One step: interrupts and idling (V-I*, E3, V-Y9, V-Y10) -/

theorem test_E3 : stepped (lines (rom { boot with p := 0x30, pc := 0x8123 } [(0x7FFB, 0x90)]) true false) (fun t =>
    wramAt t 0x1FF == 0x00 && wramAt t 0x1FE == 0x81 && wramAt t 0x1FD == 0x23 && wramAt t 0x1FC == 0x30 && t.sp == 0x01FB &&
    t.p == 0x34 && !t.bus.nmiPending && t.pc == 0x9000 && t.pbr == 0x00 && t.cycles == 7) = true := by decide
theorem test_VI1 : stepped (lines (rom { boot with e := false, p := 0x00, pbr := 0x01, pc := 0x2345, sp := 0x1FFF } [(0x7FEB, 0x90)]) true false)
    (fun t => wramAt t 0x1FFF == 0x01 && wramAt t 0x1FFE == 0x23 && wramAt t 0x1FFD == 0x45 && wramAt t 0x1FFC == 0x00 &&
      t.sp == 0x1FFB && t.p == 0x04 && t.pbr == 0x00 && t.pc == 0x9000 && !t.bus.nmiPending && t.cycles == 7) = true := by decide
theorem test_VI2 : stepped (lines (boot.withCode [0xEA]) false true) (fun t =>
    t.pc == 0x8001 && t.bus.irqPending && t.cycles == 2) = true := by decide
theorem test_VI3 : stepped (lines (rom { boot with e := false, p := 0x30 } [(0x7FEF, 0xA0)]) false true) (fun t =>
    t.pc == 0xA000 && flag t.p .i && t.bus.irqPending && t.cycles == 7) = true := by decide
theorem test_VI4 : stepped (lines (rom { boot with p := 0x30 } [(0x7FFB, 0x90), (0x7FFF, 0xA0)]) true true) (fun t =>
    t.pc == 0x9000 && flag t.p .i && t.bus.irqPending && !t.bus.nmiPending && t.cycles == 7) = true := by decide
theorem test_VI6 : stepped (lines { boot with stopped := true } true false) (fun t =>
    t.pc == 0x8000 && t.bus.nmiPending && t.stopped && t.cycles == 1) = true := by decide
theorem test_VY9_masked_irq_ends_wait : stepped (lines { (boot.withCode [0xE8]) with waiting := true } false true) (fun t =>
    !t.waiting && t.x == 0x0001 && t.bus.irqPending && t.cycles == 2) = true := by decide
theorem test_waiting_idles : stepped { (boot.withCode [0xE8]) with waiting := true } (fun t =>
    t.waiting && t.x == 0x0000 && t.cycles == 1) = true := by decide

/-! Reset (V-R*) -/

theorem test_VR1 : (rom boot [(0x7FFD, 0x80)]).cpuReset.pc = 0x8000 ∧ (rom boot [(0x7FFD, 0x80)]).cpuReset.p = 0x34 ∧
    (rom boot [(0x7FFD, 0x80)]).cpuReset.sp = 0x01FF := by decide
theorem test_VR2 : (rom boot [(0x7FFC, 0xFF), (0x7FFD, 0xFF)]).cpuReset.pc = Config.resetFallbackPc := by rfl
theorem test_VR3 : State.reset.cpuReset = State.reset := by rfl
theorem test_VR4 : (put { (rom boot [(0x7FFD, 0x80)]) with stopped := true, a := 0x1234, cycles := 500 } [(0, 0x07)]).cpuReset =
    put (rom boot [(0x7FFD, 0x80)]) [(0, 0x07)] := by decide
theorem test_VR5 : wramAt (put boot [(0, 0x07)]).busReset 0 = 0x00 := by decide

/-! Witnesses: the hypotheses of each statement can be met, each clause at a boundary of its range -/

theorem witness_DecodeInvertsEncode : (Instr.ldaImm (.byte 0xFF)).wellFormed true true = true ∧
    (Instr.ldaImm (.word 0xFFFF)).wellFormed false true = true ∧ (Instr.jmlLong 0xFFFFFF).wellFormed true true = true := by decide

theorem witness_EncodeInvertsDecode : decode true true [0xEA] = .ok (.nop, []) ∧
    decode false false [0xA2, 0x00, 0x80, 0xFF] = .ok (.ldxImm (.word 0x8000), [0xFF]) := ⟨rfl, rfl⟩

/-- A data operand at the boundary of its rows, an immediate at both widths, and an opcode with none. -/
theorem witness_EveryOpcodeIsAnInstruction :
    decode true true [0xFF, 0x56, 0x34, 0x12] = .ok (.sbcLongX 0x123456, []) ∧
    dataOperand (.sbcLongX 0x123456) = some (.mem (.longX 0x123456)) ∧
    decode true false [0xA0, 0x34, 0x12, 0x00] = .ok (.ldyImm (.word 0x1234), [0x00]) ∧
    decode true true [0xA0, 0x34, 0x12, 0x00] = .ok (.ldyImm (.byte 0x34), [0x12, 0x00]) ∧
    decode true true [0xD4, 0x10, 0x00, 0x00] = .ok (.pei 0x10, [0x00, 0x00]) ∧ dataOperand (.pei 0x10) = none :=
  ⟨rfl, rfl, rfl, rfl, rfl, rfl⟩

theorem witness_LengthFollowsWidthFlags :
    ((Instr.ldaImm (.byte 0x00)).wellFormed true false = true ∧ (Instr.ldaImm (.byte 0x00)).opcode = 0xA9) ∧
    ((Instr.ldaImm (.word 0x0000)).wellFormed false true = true ∧ (Instr.ldaImm (.word 0x0000)).opcode = 0xA9) ∧
    ((Instr.cpxImm (.byte 0x00)).wellFormed false true = true ∧ (Instr.cpxImm (.byte 0x00)).opcode = 0xE0) ∧
    ((Instr.cpxImm (.word 0x0000)).wellFormed true false = true ∧ (Instr.cpxImm (.word 0x0000)).opcode = 0xE0) ∧
    ((Instr.rep 0x30).wellFormed true true = true ∧ (Instr.rep 0x30).opcode = 0xC2) ∧
    ((Instr.pea 0x1234).wellFormed true true = true ∧ (Instr.pea 0x1234).opcode = 0xF4) := by decide

/-- One instruction in ROM, and one of four bytes that wraps inside its bank from ROM into work RAM. -/
theorem witness_StepRunsDecodedInstruction :
    ((boot.withCode [0xA9, 0x12]).stepKind = .instruction ∧
      (Instr.ldaImm (.byte 0x12)).wellFormed (flag boot.p .m) (flag boot.p .x) = true ∧
      CodeAt (boot.withCode [0xA9, 0x12]) (encode (.ldaImm (.byte 0x12)))) ∧
    (({ boot with pc := 0xFFFF }.withCode [0x5C, 0x00, 0x01, 0x7E]).stepKind = .instruction ∧
      (Instr.jmlLong 0x7E0100).wellFormed (flag boot.p .m) (flag boot.p .x) = true ∧
      CodeAt ({ boot with pc := 0xFFFF }.withCode [0x5C, 0x00, 0x01, 0x7E]) (encode (.jmlLong 0x7E0100))) := by
  unfold CodeAt
  decide

theorem witness_StepFollowsPriority :
    ({ lines boot true true with stopped := true } : State).stopped = true ∧
    ((lines boot true true).stopped = false ∧ (lines boot true true).bus.nmiPending = true) ∧
    ((lines { boot with p := 0x30 } false true).stopped = false ∧ (lines { boot with p := 0x30 } false true).bus.nmiPending = false ∧
      (lines { boot with p := 0x30 } false true).bus.irqPending = true ∧ flag (lines { boot with p := 0x30 } false true).p .i = false) ∧
    (({ boot with waiting := true } : State).stopped = false ∧ boot.bus.nmiPending = false ∧ boot.bus.irqPending = false ∧
      ({ boot with waiting := true } : State).waiting = true) ∧
    (boot.stopped = false ∧ boot.bus.nmiPending = false ∧ boot.bus.irqPending = false ∧ boot.waiting = false) ∧
    ((lines boot false true).stopped = false ∧ (lines boot false true).bus.nmiPending = false ∧
      (lines boot false true).bus.irqPending = true ∧ flag (lines boot false true).p .i = true) := by decide

theorem boot_inv : boot.Inv := ⟨fun _ => by decide, by decide⟩

theorem witness_StepKeepsInvariant : boot.Inv ∧ ∃ t, step (boot.withCode [0xEA]) = .next t := ⟨boot_inv, _, rfl⟩

theorem witness_HostCallsKeepInvariant : State.reset.Inv := ⟨fun _ => by decide, by decide⟩

theorem witness_IndexWidthInvariant : (Reachable State.reset ∧ flag State.reset.p .x = true) ∧
    ∃ t, step ({ native with x := 0x1234 }.withCode [0xE2, 0x30]) = .next t ∧ flag native.p .x = false ∧ flag t.p .x = true :=
  ⟨⟨.reset, by decide⟩, _, rfl, by decide, by decide⟩

theorem witness_StepHostSide :
    (∃ t, step (lines boot true false) = .next t ∧ Quiet (lines boot true false) t ∧
      (lines boot true false).stepKind = .service .nmi) ∧
    (∃ t, step (boot.withCode [0xEA]) = .next t ∧ Quiet (boot.withCode [0xEA]) t) :=
  ⟨⟨_, rfl, rfl, by decide⟩, _, rfl, rfl⟩

theorem witness_ModeAndHaltWriters :
    (∃ t, step (boot.withCode [0xFB]) = .next t ∧ t.e ≠ boot.e) ∧
    (∃ t, step { boot with stopped := true } = .next t ∧ ({ boot with stopped := true } : State).stopped = true) ∧
    (∃ t, step (boot.withCode [0xDB]) = .next t ∧ boot.stopped = false ∧ t.stopped = true) ∧
    (∃ t, step (boot.withCode [0xCB]) = .next t ∧ t.waiting = true) :=
  ⟨⟨_, rfl, by decide⟩, ⟨_, rfl, rfl⟩, ⟨_, rfl, rfl, rfl⟩, ⟨_, rfl, rfl⟩⟩

theorem witness_BankAndStackWriters :
    (∃ t, exec .tcd { boot with a := 0x0001 } = .next t ∧ t.d ≠ boot.d) ∧
    (∃ t, exec .plb (put { boot with sp := 0x01FE } [(0x1FF, 0x80)]) = .next t ∧ t.dbr ≠ boot.dbr) ∧
    (∃ t, exec (.jmlLong 0x7E0100) boot = .next t ∧ t.pbr ≠ boot.pbr) ∧
    (∃ t, exec .pha boot = .next t ∧ t.sp ≠ boot.sp) :=
  ⟨⟨_, rfl, by decide⟩, ⟨_, rfl, by decide⟩, ⟨_, rfl, by decide⟩, ⟨_, rfl, by decide⟩⟩

theorem witness_FlagWriters :
    (∃ t, exec .sec boot = .next t ∧ Instr.sec.opcode ∉ ([0x28, 0x40, 0xC2, 0xE2] : List Byte) ∧ flag t.p .c ≠ flag boot.p .c) ∧
    (∃ t, exec .cli boot = .next t ∧ Instr.cli.opcode ∉ ([0x28, 0x40, 0xC2, 0xE2] : List Byte) ∧ flag t.p .i ≠ flag boot.p .i) ∧
    (∃ t, exec .sed boot = .next t ∧ Instr.sed.opcode ∉ ([0x28, 0x40, 0xC2, 0xE2] : List Byte) ∧ flag t.p .d ≠ flag boot.p .d) ∧
    (∃ t, exec .xce { native with p := 0x05 } = .next t ∧ Instr.xce.opcode ∉ ([0x28, 0x40, 0xC2, 0xE2] : List Byte) ∧
      flag t.p .x ≠ flag native.p .x ∧ flag t.p .m ≠ flag native.p .m) ∧
    (∃ t, exec .clv { boot with p := 0x74 } = .next t ∧ Instr.clv.opcode ∉ ([0x28, 0x40, 0xC2, 0xE2] : List Byte) ∧
      flag t.p .v ≠ flag (0x74 : Byte) .v) :=
  ⟨⟨_, rfl, by decide, by decide⟩, ⟨_, rfl, by decide, by decide⟩, ⟨_, rfl, by decide, by decide⟩,
    ⟨_, rfl, by decide, by decide, by decide⟩, ⟨_, rfl, by decide, by decide⟩⟩

/-- The first and the last address of each range. -/
theorem witness_WorkRamAndIoDecode :
    ([0x7E0000, 0xFFFFFF] : List Addr).all (fun a => decide (0x7E ≤ a.toNat / 0x10000 % 0x80)) ∧
    ([0x000000, 0xBF1FFF] : List Addr).all (fun a => decide (a.toNat / 0x10000 % 0x80 < 0x40 ∧ a.toNat % 0x10000 < 0x2000)) ∧
    ([0x002000, 0xBF5FFF] : List Addr).all (fun a => decide (a.toNat / 0x10000 % 0x80 < 0x40 ∧ 0x2000 ≤ a.toNat % 0x10000 ∧
      a.toNat % 0x10000 < 0x6000)) := by decide

/-- The first and the last address of each range of each scheme, with the offsets of the rule there. -/
theorem witness_SchemeDecode :
    (mapAddress .schemeA 0x006000 = (.openBus, 0) ∧ mapAddress .schemeA 0xBF7FFF = (.openBus, 0)) ∧
    (mapAddress .schemeA 0x008000 = (.rom, 0x000000) ∧ mapAddress .schemeA 0xFDFFFF = (.rom, 0x3EFFFF)) ∧
    (mapAddress .schemeA 0x400000 = (.rom, 0x200000) ∧ mapAddress .schemeA 0xEF7FFF = (.rom, 0x37FFFF)) ∧
    (mapAddress .schemeA 0x700000 = (.sram, 0x00000) ∧ mapAddress .schemeA 0xFD7FFF = (.sram, 0x6FFFF)) ∧
    (mapAddress .schemeB 0x006000 = (.openBus, 0) ∧ mapAddress .schemeB 0x9F7FFF = (.openBus, 0)) ∧
    (mapAddress .schemeB 0x206000 = (.sram, 0x00000) ∧ mapAddress .schemeB 0xBF7FFF = (.sram, 0x3FFFF)) ∧
    (mapAddress .schemeB 0x008000 = (.rom, 0x008000) ∧ mapAddress .schemeB 0xBFFFFF = (.rom, 0x3FFFFF)) ∧
    (mapAddress .schemeB 0x400000 = (.rom, 0x000000) ∧ mapAddress .schemeB 0xFDFFFF = (.rom, 0x3DFFFF)) := by decide

theorem witness_RamReadsBack : boot.bus.wf = true ∧ (locate boot.bus.scheme 0xFFFFFF).isRam = true ∧
    locate boot.bus.scheme 0x7FFFFF = locate boot.bus.scheme 0xFFFFFF ∧
    locate boot.bus.scheme 0x7E0000 ≠ locate boot.bus.scheme 0xFFFFFF ∧
    (locate boot.bus.scheme (0xFFFFFF + 1)).isRam = true := by decide

theorem witness_RomIsImmutable : (mapAddress boot.bus.scheme 0x008000).1 = .rom := by decide

theorem witness_OpenBusSentinel : (mapAddress boot.bus.scheme 0x006000).1 = .openBus ∧
    ((mapAddress boot.bus.scheme 0x018000).1 = .rom ∧ boot.bus.romLen ≤ (mapAddress boot.bus.scheme 0x018000).2) ∧
    (mapAddress boot.bus.scheme 0x004210 = (.io, 0x4210) ∧ boot.bus.readsBack 0x4210 = false ∧ boot.bus.writesBack 0x4210 = false) ∧
    (mapAddress boot.bus.scheme 0x004212 = (.io, 0x4212) ∧ boot.bus.readsBack 0x4212 = false) ∧
    (mapAddress boot.bus.scheme 0x005FFF = (.io, 0x5FFF) ∧ boot.bus.readsBack 0x5FFF = false) := by decide

theorem witness_CallbacksAnswerAndAreRecorded : mapAddress (handler boot 0x2118 true true).bus.scheme 0x002118 = (.io, 0x2118) ∧
    (handler boot 0x2118 true true).bus.readsBack 0x2118 = true ∧ (handler boot 0x2118 true true).bus.writesBack 0x2118 = true := by
  decide

theorem witness_LastRegistrationWins : (0x2119 : Nat) ≠ (0x2118 : Word).toNat := by decide

theorem witness_CartridgeIsLoaded : (0 : Nat) < ([0x18] : List Byte).length := by decide

theorem witness_IndirectModes :
    (0xFFFF : Word).toNat = (({ boot with d := 0xFF00 } : State).d.toNat + (0xFF : Byte).toNat) % 0x10000 ∧
    (0x0000 : Word).toNat = (({ boot with d := 0xFF00, x := 0x0001 } : State).d.toNat + (0xFF : Byte).toNat +
      ({ boot with d := 0xFF00, x := 0x0001 } : State).getX.toNat) % 0x10000 ∧
    (0xFFFF : Word).toNat = (({ boot with sp := 0xFF00 } : State).sp.toNat + (0xFF : Byte).toNat) % 0x10000 := by decide

theorem witness_OperandReadAtWidth : AddrMode.sr 0xFF ∈ [AddrMode.dp 0xFF, .dpX 0xFF, .dpY 0xFF, .abs 0xFFFF, .absX 0xFFFF,
    .absY 0xFFFF, .long 0xFFFFFF, .longX 0xFFFFFF, .sr 0xFF] := by decide

theorem witness_RegisterWidths : (flag (0x34 : Byte) .x = true ∧ flag (0x24 : Byte) .x = false) ∧
    (flag boot.p .m = true ∧ flag native.p .m = false) := by decide

theorem witness_Loads :
    ((Instr.ldaAbs 0x1234).opcode ∈ ldaOpcodes ∧ dataOperand (.ldaAbs 0x1234) = some (.mem (.abs 0x1234))) ∧
    ((Instr.ldxImm (.byte 0x12)).opcode ∈ ldxOpcodes ∧ dataOperand (.ldxImm (.byte 0x12)) = some (.imm (.byte 0x12))) ∧
    ((Instr.ldyDpX 0x12).opcode ∈ ldyOpcodes ∧ dataOperand (.ldyDpX 0x12) = some (.mem (.dpX 0x12))) := by decide

theorem witness_Stores :
    ((Instr.staSrIndY 0x12).opcode ∈ staOpcodes ∧ dataOperand (.staSrIndY 0x12) = some (.mem (.srIndY 0x12))) ∧
    ((Instr.stxDpY 0x12).opcode ∈ stxOpcodes ∧ dataOperand (.stxDpY 0x12) = some (.mem (.dpY 0x12))) ∧
    ((Instr.styAbs 0x1234).opcode ∈ styOpcodes ∧ dataOperand (.styAbs 0x1234) = some (.mem (.abs 0x1234))) ∧
    ((Instr.stzAbsX 0x1234).opcode ∈ stzOpcodes ∧ dataOperand (.stzAbsX 0x1234) = some (.mem (.absX 0x1234))) := by decide

theorem witness_AddWithCarry : (Instr.adcLongX 0x7E0000).opcode ∈ adcOpcodes ∧
    dataOperand (.adcLongX 0x7E0000) = some (.mem (.longX 0x7E0000)) := by decide

theorem witness_SubtractWithBorrow : (Instr.sbcImm (.word 0xFFFF)).opcode ∈ sbcOpcodes ∧
    dataOperand (.sbcImm (.word 0xFFFF)) = some (.imm (.word 0xFFFF)) := by decide

theorem witness_Logic :
    ((Instr.andDp 0x12).opcode ∈ andOpcodes ∧ dataOperand (.andDp 0x12) = some (.mem (.dp 0x12))) ∧
    ((Instr.oraDpIndLY 0x12).opcode ∈ oraOpcodes ∧ dataOperand (.oraDpIndLY 0x12) = some (.mem (.dpIndLY 0x12))) ∧
    ((Instr.eorSr 0x12).opcode ∈ eorOpcodes ∧ dataOperand (.eorSr 0x12) = some (.mem (.sr 0x12))) := by decide

theorem witness_Compares :
    ((Instr.cmpDpIndX 0x12).opcode ∈ cmpOpcodes ∧ dataOperand (.cmpDpIndX 0x12) = some (.mem (.dpIndX 0x12))) ∧
    ((Instr.cpxDp 0x12).opcode ∈ cpxOpcodes ∧ dataOperand (.cpxDp 0x12) = some (.mem (.dp 0x12))) ∧
    ((Instr.cpyAbs 0x1234).opcode ∈ cpyOpcodes ∧ dataOperand (.cpyAbs 0x1234) = some (.mem (.abs 0x1234))) := by decide

theorem witness_BitTest :
    ((Instr.bitImm (.byte 0x80)).opcode ∈ bitOpcodes ∧ dataOperand (.bitImm (.byte 0x80)) = some (.imm (.byte 0x80)) ∧
      (Instr.bitImm (.byte 0x80)).opcode = 0x89) ∧
    ((Instr.bitDp 0x10).opcode ∈ bitOpcodes ∧ dataOperand (.bitDp 0x10) = some (.mem (.dp 0x10)) ∧
      (Instr.bitDp 0x10).opcode ≠ 0x89) := by decide

theorem witness_ReadModifyWrites :
    ((Instr.incAbsX 0x1234).opcode ∈ incOpcodes ∧ dataOperand (.incAbsX 0x1234) = some (.mem (.absX 0x1234))) ∧
    ((Instr.decDp 0x12).opcode ∈ decOpcodes ∧ dataOperand (.decDp 0x12) = some (.mem (.dp 0x12))) ∧
    ((Instr.aslDpX 0x12).opcode ∈ aslOpcodes ∧ dataOperand (.aslDpX 0x12) = some (.mem (.dpX 0x12))) ∧
    ((Instr.lsrAbs 0x1234).opcode ∈ lsrOpcodes ∧ dataOperand (.lsrAbs 0x1234) = some (.mem (.abs 0x1234))) ∧
    ((Instr.rolDp 0x12).opcode ∈ rolOpcodes ∧ dataOperand (.rolDp 0x12) = some (.mem (.dp 0x12))) ∧
    ((Instr.rorDp 0x12).opcode ∈ rorOpcodes ∧ dataOperand (.rorDp 0x12) = some (.mem (.dp 0x12))) ∧
    ((Instr.tsbAbs 0x1234).opcode ∈ tsbOpcodes ∧ dataOperand (.tsbAbs 0x1234) = some (.mem (.abs 0x1234))) ∧
    ((Instr.trbDp 0x12).opcode ∈ trbOpcodes ∧ dataOperand (.trbDp 0x12) = some (.mem (.dp 0x12))) := by decide

/-- Taken backwards by the most, and not taken. -/
theorem witness_ConditionalBranches :
    ((.bne 0x80, .z, false) ∈ ([(.bpl 0x80, Flag.n, false), (.bmi 0x80, .n, true), (.bvc 0x80, .v, false), (.bvs 0x80, .v, true),
      (.bcc 0x80, .c, false), (.bcs 0x80, .c, true), (.bne 0x80, .z, false), (.beq 0x80, .z, true)] : List (Instr × Flag × Bool)) ∧
      flag boot.p .z = false) ∧
    ((.bne 0x80, .z, false) ∈ ([(.bpl 0x80, Flag.n, false), (.bmi 0x80, .n, true), (.bvc 0x80, .v, false), (.bvs 0x80, .v, true),
      (.bcc 0x80, .c, false), (.bcs 0x80, .c, true), (.bne 0x80, .z, false), (.beq 0x80, .z, true)] : List (Instr × Flag × Bool)) ∧
      flag ({ boot with p := 0x36 } : State).p .z ≠ false) := by decide

/-- A pointer that wraps inside the bank. -/
theorem witness_Jumps : (0x0001 : Word).toNat =
    ((0xFFFF : Word).toNat + ({ boot with x := 0x0002 } : State).getX.toNat) % 0x10000 := by decide

theorem witness_CallsAndReturns : (0xFFFF : Word).toNat = ((0xFFFF : Word).toNat + boot.getX.toNat) % 0x10000 := by decide

theorem witness_InterruptEntry :
    ((lines boot true true).stepKind = .service .nmi ∧ (0xFFFA : Word) = (if (lines boot true true).e then 0xFFFA else 0xFFEA)) ∧
    ((lines native true false).stepKind = .service .nmi ∧ (0xFFEA : Word) = (if (lines native true false).e then 0xFFFA else 0xFFEA)) ∧
    ((lines { boot with p := 0x30 } false true).stepKind = .service .irq ∧ (0xFFFE : Word) = (if boot.e then 0xFFFE else 0xFFEE)) ∧
    ((lines { native with p := 0x00 } false true).stepKind = .service .irq ∧ (0xFFEE : Word) = (if native.e then 0xFFFE else 0xFFEE)) ∧
    (lines boot true true).bus.wf = true ∧ StackInRam (lines boot true true).sp 4 := by
  unfold StackInRam
  decide

theorem witness_SoftwareInterruptEntry :
    (Instr.brk 0x00 = .brk 0x00 ∧ (0xFFFE : Word) = (if boot.e then 0xFFFE else 0xFFE6)) ∧
    (Instr.cop 0x00 = .cop 0x00 ∧ (0xFFE4 : Word) = (if native.e then 0xFFF4 else 0xFFE4)) ∧
    boot.bus.wf = true ∧ StackInRam boot.sp 4 := by
  unfold StackInRam
  decide

theorem witness_ReturnFromInterrupt :
    (∃ t, exec .rti (put { boot with sp := 0x01FB } [(0x1FC, 0x30)]) = .next t ∧ flag t.p .x = true) ∧
    (∃ t, exec .rti { boot with sp := 0xFFFF } = .next t ∧ flag t.p .x = false) := ⟨⟨_, rfl, by decide⟩, _, rfl, by decide⟩

theorem witness_InterruptThenReturn : (lines boot true false).Inv ∧ StackInRam (lines boot true false).sp 4 ∧
    (lines boot true false).stepKind = .service .nmi ∧ ∃ t, step (lines boot true false) = .next t :=
  ⟨⟨fun _ => by decide, by decide⟩, by unfold StackInRam; decide, by decide, _, rfl⟩

theorem witness_StackPrimitives : boot.bus.wf = true ∧ (locate boot.bus.scheme (mkAddr 0x00 0x1FFF)).isRam = true ∧
    (locate boot.bus.scheme (mkAddr 0x00 (0x1FFF - 1))).isRam = true ∧
    (locate boot.bus.scheme (mkAddr 0x00 0x0000)).isRam = true := by decide

theorem witness_Pushes : (flag boot.p .m = true ∧ flag boot.p .x = true) ∧ (flag native.p .m = false ∧ flag native.p .x = false) ∧
    (0xFFFF : Word).toNat = (({ boot with d := 0xFF00 } : State).d.toNat + (0xFF : Byte).toNat) % 0x10000 := by decide

theorem witness_Pulls : (flag boot.p .m = true ∧ flag boot.p .x = true) ∧ (flag native.p .m = false ∧ flag native.p .x = false) ∧
    (∃ t, exec .plp (put { boot with sp := 0x01FE } [(0x1FF, 0x30)]) = .next t ∧ flag t.p .x = true) ∧
    (∃ t, exec .plp boot = .next t ∧ flag t.p .x = false) :=
  ⟨by decide, by decide, ⟨_, rfl, by decide⟩, _, rfl, by decide⟩

theorem witness_StatusWrites :
    (Instr.sei, Flag.i, true) ∈ [(Instr.clc, Flag.c, false), (.sec, .c, true), (.cli, .i, false), (.sei, .i, true), (.cld, .d, false),
      (.sed, .d, true), (.clv, .v, false)] ∧
    (flag (boot.p &&& ~~~(0x00 : Byte)) .x = true ∧ flag (boot.p &&& ~~~(0x30 : Byte)) .x = false) ∧
    (flag (native.p ||| (0x10 : Byte)) .x = true ∧ flag (native.p ||| (0x00 : Byte)) .x = false) := by decide

theorem witness_ExchangeCarryEmulation : (native.e = false ∧ flag ({ native with p := 0x05 } : State).p .c = true) ∧
    boot.e = true ∧ flag native.p .c = false := by decide

theorem witness_OtherInstructionsKeepMemory : ∃ t, exec (.ldaAbs 0x1234) boot = .next t ∧ Quiet boot t ∧
    (Instr.ldaAbs 0x1234).opcode ∉ staOpcodes ++ stxOpcodes ++ styOpcodes ++ stzOpcodes ++ incOpcodes ++ decOpcodes ++ aslOpcodes ++
      lsrOpcodes ++ rolOpcodes ++ rorOpcodes ++ tsbOpcodes ++ trbOpcodes ++
      [0x54, 0x44, 0x48, 0xDA, 0x5A, 0x08, 0x8B, 0x0B, 0x4B, 0xF4, 0xD4, 0x62, 0x20, 0xFC, 0x22, 0x00, 0x02] :=
  ⟨_, rfl, rfl, by decide⟩

theorem witness_StoresWriteOnlyTheirBytes :
    (boot.bus.wf = true ∧ ∃ t, exec (.staLong 0xFFFFFF) boot = .next t ∧ Quiet boot t ∧
      dataOperand (.staLong 0xFFFFFF) = some (.mem (.long 0xFFFFFF)) ∧ (Instr.staLong 0xFFFFFF).opcode ∈ staOpcodes) ∧
    (∃ t, exec (.incDp 0x10) boot = .next t ∧ Quiet boot t ∧ dataOperand (.incDp 0x10) = some (.mem (.dp 0x10)) ∧
      (Instr.incDp 0x10).opcode ∈ incOpcodes) ∧
    (∃ t, exec (.stxDp 0x10) boot = .next t ∧ Quiet boot t ∧ dataOperand (.stxDp 0x10) = some (.mem (.dp 0x10)) ∧
      (Instr.stxDp 0x10).opcode ∈ stxOpcodes ++ styOpcodes) ∧
    (∃ t, exec (.mvn 0x7F 0x7E) boot = .next t ∧ Quiet boot t) :=
  ⟨⟨by decide, _, rfl, rfl, rfl, by decide⟩, ⟨_, rfl, rfl, rfl, by decide⟩, ⟨_, rfl, rfl, rfl, by decide⟩, ⟨_, rfl, rfl⟩⟩

theorem witness_PushesWriteOnlyTheirBytes : boot.bus.wf = true ∧
    (∃ t, exec .pha boot = .next t ∧ Quiet boot t ∧ Instr.pha.opcode = 0x48) ∧
    (∃ t, exec .phy native = .next t ∧ Quiet native t ∧ Instr.phy.opcode ∈ ([0xDA, 0x5A] : List Byte)) ∧
    (∃ t, exec .phk boot = .next t ∧ Quiet boot t ∧ Instr.phk.opcode ∈ ([0x08, 0x8B, 0x4B] : List Byte)) ∧
    (∃ t, exec .phd { boot with sp := 0x0000 } = .next t ∧ Quiet boot t ∧
      Instr.phd.opcode ∈ ([0x0B, 0xF4, 0xD4, 0x62, 0x20, 0xFC] : List Byte)) ∧
    (∃ t, exec (.jsl 0x018000) boot = .next t ∧ Quiet boot t ∧ (Instr.jsl 0x018000).opcode = 0x22) ∧
    (∃ t, exec (.cop 0x00) boot = .next t ∧ Quiet boot t ∧ (Instr.cop 0x00).opcode ∈ ([0x00, 0x02] : List Byte)) :=
  ⟨by decide, ⟨_, rfl, rfl, rfl⟩, ⟨_, rfl, rfl, by decide⟩, ⟨_, rfl, rfl, by decide⟩, ⟨_, rfl, rfl, by decide⟩,
    ⟨_, rfl, rfl, rfl⟩, ⟨_, rfl, rfl, by decide⟩⟩

end Sys2Proof.Tests
end

section
/-! SUPPORT. What every step keeps: the index-width rule of 10_state.md R31 in every state, and the form of the bus. From
them the invariant of the machine, at reset and along every step, and the rule in every reachable state. -/

namespace Sys2Proof.Machine

/-- An interrupt service keeps the index-width rule: it writes neither X nor Y, and of P only I. -/
theorem State.serviceInterrupt_indexWidthInv {s : State} (kind : Interrupt) (h : s.indexWidthInv) :
    (s.serviceInterrupt kind).indexWidthInv := by
  obtain ⟨lo, hi, -, -, e⟩ := s.serviceInterrupt_eq kind
  rw [e]
  exact indexWidthInv_of_eq (flag_setFlag_other _ _ (by decide)) rfl rfl h

/-- An interrupt service keeps the form of the bus; the request line an NMI clears is no part of it. -/
theorem State.serviceInterrupt_bus_wf {s : State} (kind : Interrupt) (h : s.bus.wf = true) :
    (s.serviceInterrupt kind).bus.wf = true := by
  obtain ⟨lo, hi, -, -, e⟩ := s.serviceInterrupt_eq kind
  have hw : s.pushFrame.bus.wf = true := s.pushFrame_grows.wf h
  rw [e]
  by_cases hk : kind = .nmi
  · rw [if_pos hk]; exact hw
  · rw [if_neg hk]; exact hw

/-- Every step keeps the index-width rule (10_state.md R31), whatever the bus holds. -/
theorem step_indexWidthInv {s t : State} (h : step s = .next t) (hi : s.indexWidthInv) : t.indexWidthInv := by
  rcases step_cases h with ⟨-, rfl⟩ | ⟨kind, -, rfl⟩ | ⟨-, hx⟩
  · exact State.indexWidthInv_of_eq rfl rfl rfl hi
  · exact State.serviceInterrupt_indexWidthInv kind hi
  · obtain ⟨n, bus, e, -⟩ := awake_fetch_keeps s
    rw [e] at hx
    exact (exec_tame hx).index (State.indexWidthInv_of_eq rfl rfl rfl hi)

/-- Every step keeps the form of the bus, whatever the callbacks answer and do (20_memory.md R50, R66). -/
theorem step_bus_wf {s t : State} (h : step s = .next t) (hw : s.bus.wf = true) : t.bus.wf = true := by
  rcases step_cases h with ⟨-, rfl⟩ | ⟨kind, -, rfl⟩ | ⟨-, hx⟩
  · exact hw
  · exact State.serviceInterrupt_bus_wf kind hw
  · obtain ⟨n, bus, e, g⟩ := awake_fetch_keeps s
    rw [e] at hx
    exact (exec_tame hx).bus.wf (g.wf hw)

/-- Settles O9: the two halves of the invariant, each kept by an idle step, a service and an instruction. -/
theorem stepKeepsInvariant : Obligations.StepKeepsInvariant :=
  fun _ _ ⟨hi, hw⟩ h => ⟨step_indexWidthInv h hi, step_bus_wf h hw⟩

/-- After reset X and Y are zero (10_state.md R41). -/
theorem State.reset_indexWidthInv : State.reset.indexWidthInv := fun _ => ⟨by decide, by decide⟩

/-- Settles O10: the registers are zero and the lists of the bus are empty. -/
theorem resetMeetsInvariant : Obligations.ResetMeetsInvariant := ⟨State.reset_indexWidthInv, by decide⟩

/-- No call of the host breaks the index-width rule: CPU.reset zeroes X and Y, the others leave every register. -/
theorem HostCall.apply_indexWidthInv {s : State} (call : HostCall) (h : s.indexWidthInv) :
    (call.apply s).indexWidthInv := by
  cases call with
  | cpuReset => exact fun _ => (by decide : hiByte 0x0000 = 0 ∧ hiByte 0x0000 = 0)
  | busReset | loadCartridge | dmaCopy | act => exact State.indexWidthInv_of_eq rfl rfl rfl h

/-- The index-width rule holds at reset, and steps and calls of the host keep it. -/
theorem Reachable.indexWidthInv {s : State} (h : Reachable s) : s.indexWidthInv := by
  induction h with
  | reset => exact State.reset_indexWidthInv
  | step _ h ih => exact step_indexWidthInv h ih
  | host call _ ih => exact call.apply_indexWidthInv ih

/-- Settles O12: reachable states by induction; and a state with P.X = 0 meets the index-width rule outright, so the step
from it keeps the rule. -/
theorem indexWidthInvariant : Obligations.IndexWidthInvariant :=
  ⟨fun _ hr => hr.indexWidthInv, fun _ _ h h0 =>
    step_indexWidthInv h fun h1 => absurd h1 (by simp [h0])⟩

end Sys2Proof.Machine
end

section
/-! SUPPORT. Which instructions write a register or a flag: the table of Laws/Writes.lean read backwards, from what changed
to the instruction that changed it (10_state.md R23 to R28, R39). -/

namespace Sys2Proof.Machine

/-- A register that changed is one of those that may change. -/
theorem Keeps.reg_mem {rs : List Reg} {fs : List Flag} {s t : State} (h : Keeps rs fs s t) {r : Reg}
    (hr : t.reg r ≠ s.reg r) : r ∈ rs :=
  by_contra fun hn => hr (h.1 r hn)

/-- A flag that changed is one of those that may change. -/
theorem Keeps.flag_mem {rs : List Reg} {fs : List Flag} {s t : State} (h : Keeps rs fs s t) {f : Flag}
    (hf : flag t.p f ≠ flag s.p f) : f ∈ fs :=
  by_contra fun hn => hf (h.2 f hn)

/-! The mode and the halts -/

/-- E, the stop and the wait have one writer each (10_state.md R28, R39). -/
theorem writes_mode_halt (i : Instr) :
    (.e ∈ (writes i).1 → i = .xce) ∧ (.stopped ∈ (writes i).1 → i = .stp) ∧ (.waiting ∈ (writes i).1 → i = .wai) := by
  refine of_decide_eq_true ?_
  cases i <;> rfl

theorem bool_eq_of_toNat_eq : ∀ {a b : Bool}, a.toNat = b.toNat → a = b := by decide

/-- An instruction that changes E, the stop or the wait is the one writer of it. -/
theorem exec_mode_halt {i : Instr} {s t : State} (h : exec i s = .next t) :
    (t.e ≠ s.e → i = .xce) ∧ (t.stopped ≠ s.stopped → i = .stp) ∧ (t.waiting ≠ s.waiting → i = .wai) := by
  have hk := exec_keeps h
  obtain ⟨he, hs, hw⟩ := writes_mode_halt i
  exact ⟨fun hn => he (hk.reg_mem fun hr => hn (bool_eq_of_toNat_eq hr)),
    fun hn => hs (hk.reg_mem fun hr => hn (bool_eq_of_toNat_eq hr)),
    fun hn => hw (hk.reg_mem fun hr => hn (bool_eq_of_toNat_eq hr))⟩

/-- XCE takes E from C (47_status_system.md R319). -/
theorem exec_xce_e {s t : State} (h : exec .xce s = .next t) : t.e = flag s.p .c := by
  cases h
  simp only [exchangeCE]
  split <;> rfl

/-- E, the stop and the wait over a step: an idle step keeps all three, a service keeps the first two and ends a wait, and
an instruction runs with E, the stop and P as the step found them and the wait over (40_dispatch.md R120). -/
theorem step_mode_halt {s t : State} (h : step s = .next t) :
    (s.stepKind = .idle ∧ t.e = s.e ∧ t.stopped = s.stopped ∧ t.waiting = s.waiting) ∨
      ((∃ kind, s.stepKind = .service kind) ∧ t.e = s.e ∧ t.stopped = s.stopped ∧ t.waiting = false) ∨
      (s.stepKind = .instruction ∧ ∃ u, exec s.awake.fetchInstr.1 u = .next t ∧ u.e = s.e ∧ u.p = s.p ∧
        u.stopped = s.stopped ∧ u.waiting = false) := by
  rcases step_cases h with ⟨hk, rfl⟩ | ⟨kind, hk, rfl⟩ | ⟨hk, hx⟩
  · exact .inl ⟨hk, rfl, rfl, rfl⟩
  · obtain ⟨lo, hi, -, -, e⟩ := s.serviceInterrupt_eq kind
    rw [e]
    exact .inr (.inl ⟨⟨kind, hk⟩, rfl, rfl, rfl⟩)
  · obtain ⟨n, bus, e, -⟩ := awake_fetch_keeps s
    refine .inr (.inr ⟨hk, _, hx, ?_⟩)
    rw [e]
    exact ⟨rfl, rfl, rfl, rfl⟩

/-- A step that changes E runs XCE, and E becomes the old C. -/
theorem step_changes_e {s t : State} (h : step s = .next t) (hn : t.e ≠ s.e) :
    s.stepKind = .instruction ∧ s.awake.fetchInstr.1 = .xce ∧ t.e = flag s.p .c := by
  rcases step_mode_halt h with ⟨-, he, -⟩ | ⟨-, he, -⟩ | ⟨hk, u, hx, he, hp, -⟩
  · exact absurd he hn
  · exact absurd he hn
  · have hi := (exec_mode_halt hx).1 (by rwa [he])
    rw [hi] at hx
    exact ⟨hk, hi, hp ▸ exec_xce_e hx⟩

/-- A stopped CPU idles (40_dispatch.md R120). -/
theorem State.stepKind_of_stopped {s : State} (h : s.stopped = true) : s.stepKind = .idle := by
  rw [stepKind, if_pos h]

/-- No step ends a stop: a stopped CPU idles, and an idle step keeps the stop. -/
theorem step_keeps_stop {s t : State} (h : step s = .next t) (hs : s.stopped = true) : t.stopped = true := by
  rw [step, State.stepKind_of_stopped hs] at h
  cases h
  exact hs

/-- A step that begins a stop runs STP. -/
theorem step_begins_stop {s t : State} (h : step s = .next t) (hs : s.stopped = false) (ht : t.stopped = true) :
    s.stepKind = .instruction ∧ s.awake.fetchInstr.1 = .stp := by
  have hn : t.stopped ≠ s.stopped := by rw [hs, ht]; decide
  rcases step_mode_halt h with ⟨-, -, he, -⟩ | ⟨-, -, he, -⟩ | ⟨hk, u, hx, -, -, he, -⟩
  · exact absurd he hn
  · exact absurd he hn
  · exact ⟨hk, (exec_mode_halt hx).2.1 (by rwa [he])⟩

/-- A wait after a step was there before an idle step, or the step ran WAI. -/
theorem step_waits {s t : State} (h : step s = .next t) (ht : t.waiting = true) :
    (s.waiting = true ∧ s.stepKind = .idle) ∨ (s.stepKind = .instruction ∧ s.awake.fetchInstr.1 = .wai) := by
  rcases step_mode_halt h with ⟨hk, -, -, hw⟩ | ⟨-, -, -, hw⟩ | ⟨hk, u, hx, -, -, -, hw⟩
  · exact .inl ⟨hw ▸ ht, hk⟩
  · exact absurd (hw.symm.trans ht) (by decide)
  · exact .inr ⟨hk, (exec_mode_halt hx).2.2 (by rw [ht, hw]; decide)⟩

/-- Settles O14, from what a step does to each of the three. -/
theorem modeAndHaltWriters : Obligations.ModeAndHaltWriters :=
  ⟨fun _ _ => step_changes_e, fun _ _ h => ⟨step_keeps_stop h, step_begins_stop h, step_waits h⟩⟩

/-! The bank registers, D and S -/

/-- The opcodes of the writers of D, DBR, PBR and S (10_state.md R23, R24, R26). -/
theorem writes_bank_stack (i : Instr) :
    (.d ∈ (writes i).1 → i.opcode ∈ ([0x5B, 0x2B] : List Byte)) ∧
    (.dbr ∈ (writes i).1 → i.opcode ∈ ([0xAB, 0x54, 0x44] : List Byte)) ∧
    (.pbr ∈ (writes i).1 → i.opcode ∈ ([0x5C, 0xDC, 0x22, 0x6B, 0x40, 0x00, 0x02] : List Byte)) ∧
    (.sp ∈ (writes i).1 → i.opcode ∈ ([0x48, 0xDA, 0x5A, 0x08, 0x8B, 0x0B, 0x4B, 0xF4, 0xD4, 0x62, 0x68, 0xFA, 0x7A, 0x28,
      0xAB, 0x2B, 0x20, 0xFC, 0x22, 0x60, 0x6B, 0x00, 0x02, 0x40, 0x9A, 0x1B, 0xFB] : List Byte)) := by
  refine of_decide_eq_true ?_
  cases i <;> rfl

/-- Settles O15: what changed is in the table of the registers that the instruction may write. -/
theorem bankAndStackWriters : Obligations.BankAndStackWriters := by
  intro i s t h
  have hk := exec_keeps h
  obtain ⟨hd, hdbr, hpbr, hsp⟩ := writes_bank_stack i
  exact ⟨fun hn => hd (hk.reg_mem fun hr => hn (BitVec.eq_of_toNat_eq hr)),
    fun hn => hdbr (hk.reg_mem fun hr => hn (BitVec.eq_of_toNat_eq hr)),
    fun hn => hpbr (hk.reg_mem fun hr => hn (BitVec.eq_of_toNat_eq hr)),
    fun hn => hsp (hk.reg_mem fun hr => hn (BitVec.eq_of_toNat_eq hr))⟩

/-! The flags -/

/-- The opcodes of the writers of C, I, D, X, M and V that do not write the whole of P (10_state.md R27). -/
theorem writes_flags (i : Instr) : i.opcode ∉ ([0x28, 0x40, 0xC2, 0xE2] : List Byte) →
    (.c ∈ (writes i).2 → i.opcode ∈ adcOpcodes ++ sbcOpcodes ++ cmpOpcodes ++ cpxOpcodes ++ cpyOpcodes ++
      aslOpcodes ++ lsrOpcodes ++ rolOpcodes ++ rorOpcodes ++ [0x0A, 0x4A, 0x2A, 0x6A, 0x18, 0x38, 0xFB]) ∧
    (.i ∈ (writes i).2 → i.opcode ∈ ([0x58, 0x78, 0x00, 0x02] : List Byte)) ∧
    (.d ∈ (writes i).2 → i.opcode ∈ ([0xD8, 0xF8] : List Byte)) ∧
    (.x ∈ (writes i).2 → i.opcode = 0xFB) ∧
    (.m ∈ (writes i).2 → i.opcode = 0xFB) ∧
    (.v ∈ (writes i).2 → i.opcode ∈ adcOpcodes ++ sbcOpcodes ++ [0x24, 0x2C, 0x34, 0x3C, 0xB8]) := by
  refine of_decide_eq_true ?_
  cases i <;> rfl

/-- Settles O16: what changed is in the table of the flags that the instruction may write. -/
theorem flagWriters : Obligations.FlagWriters := by
  intro i s t h hp
  have hk := exec_keeps h
  obtain ⟨hc, hi, hd, hx, hm, hv⟩ := writes_flags i hp
  exact ⟨fun hn => hc (hk.flag_mem hn), fun hn => hi (hk.flag_mem hn), fun hn => hd (hk.flag_mem hn),
    fun hn => hx (hk.flag_mem hn), fun hn => hm (hk.flag_mem hn), fun hn => hv (hk.flag_mem hn)⟩

end Sys2Proof.Machine
end

section
/-! SUPPORT. The widths and the accesses to registers at them (10_state.md R32 to R36). -/

namespace Sys2Proof.Machine

theorem State.wM_bits (s : State) : s.wM.bits = if flag s.p .m = true then 8 else 16 := by
  unfold wM
  split <;> rfl

theorem State.wX_bits (s : State) : s.wX.bits = if flag s.p .x = true then 8 else 16 := by
  unfold wX
  split <;> rfl

/-- setNZ leaves every register and every flag but Z and N (10_state.md R35). -/
theorem State.setNZ_keeps (s : State) (w : Width) (v : Word) : Keeps [] [.z, .n] s (s.setNZ w v) :=
  ⟨fun r _ => by cases r <;> rfl, fun f hf => flag_setNZ_other _ _ _ (by rintro rfl; simp at hf) (by rintro rfl; simp at hf)⟩

/-- Settles O31, from the law of each access. -/
theorem registerWidths : Obligations.RegisterWidths := by
  refine ⟨fun s => ?widths, fun w => ?masks, fun s v => ?writes, fun s w v => ?setNZ, fun s v => ?setP⟩
  case widths =>
    exact ⟨s.wM_bits, s.wX_bits, Width.toNat_trunc _ _, Width.toNat_trunc _ _, Width.toNat_trunc _ _⟩
  case masks => cases w <;> decide
  case writes => exact ⟨accumulatorIs_merge rfl, rfl, indexIs_trunc rfl, rfl, indexIs_trunc rfl, rfl⟩
  case setNZ => exact ⟨nzFrom_setNZ s.p rfl, s.setNZ_keeps w v, rfl⟩
  case setP =>
    obtain ⟨narrow, wide⟩ := s.setP_index v
    exact ⟨rfl, narrow, wide, rfl⟩

end Sys2Proof.Machine
end

section
/-! SUPPORT. Address decoding over the bank without its high bit and the offset, as numbers (20_memory.md R52 to R58). -/

namespace Sys2Proof.Machine

theorem addr_bank_mod (a : Addr) : a.bank.toNat % 0x80 = a.toNat / 0x10000 % 0x80 := by
  rw [toNat_addr_bank]

/-- Banks 0x7E and 0x7F are work RAM (R53). -/
theorem mapAddress_wramBanks (scheme : Scheme) {a : Addr} (hb : 0x7E ≤ a.toNat / 0x10000 % 0x80) :
    mapAddress scheme a = (.wram, (a.toNat / 0x10000 % 0x80 - 0x7E) * 0x10000 + a.toNat % 0x10000) := by
  simp only [mapAddress, addr_bank_mod, toNat_addr_offset, if_pos hb]

/-- Below offset 0x2000 the low banks mirror work RAM (R54). -/
theorem mapAddress_wramMirror (scheme : Scheme) {a : Addr} (hb : a.toNat / 0x10000 % 0x80 < 0x40)
    (ha : a.toNat % 0x10000 < 0x2000) : mapAddress scheme a = (.wram, a.toNat % 0x10000) := by
  have hn : ¬ 0x7E ≤ a.toNat / 0x10000 % 0x80 := by omega
  simp only [mapAddress, addr_bank_mod, toNat_addr_offset, if_neg hn, if_pos (And.intro hb ha)]

/-- The I/O window of the low banks (R55). -/
theorem mapAddress_io (scheme : Scheme) {a : Addr} (hb : a.toNat / 0x10000 % 0x80 < 0x40)
    (hlo : 0x2000 ≤ a.toNat % 0x10000) (hhi : a.toNat % 0x10000 < 0x6000) :
    mapAddress scheme a = (.io, a.toNat % 0x10000) := by
  have hn : ¬ 0x7E ≤ a.toNat / 0x10000 % 0x80 := by omega
  have hm : ¬ (a.toNat / 0x10000 % 0x80 < 0x40 ∧ a.toNat % 0x10000 < 0x2000) := by omega
  simp only [mapAddress, addr_bank_mod, toNat_addr_offset, if_neg hn, if_neg hm, if_pos (And.intro hb hhi)]

/-- Everything else is the scheme's (R57, R58): the addresses below bank 0x7E that are not in the first 24 KiB of a low
bank. -/
theorem mapAddress_scheme {a : Addr} (hb : a.toNat / 0x10000 % 0x80 < 0x7E)
    (ha : a.toNat / 0x10000 % 0x80 < 0x40 → 0x6000 ≤ a.toNat % 0x10000) :
    mapAddress .schemeA a = mapSchemeA (a.toNat / 0x10000 % 0x80) (a.toNat % 0x10000) ∧
      mapAddress .schemeB a = mapSchemeB (a.toNat / 0x10000 % 0x80) (a.toNat % 0x10000) := by
  have hn : ¬ 0x7E ≤ a.toNat / 0x10000 % 0x80 := by omega
  have hm : ¬ (a.toNat / 0x10000 % 0x80 < 0x40 ∧ a.toNat % 0x10000 < 0x2000) := by omega
  have hi : ¬ (a.toNat / 0x10000 % 0x80 < 0x40 ∧ a.toNat % 0x10000 < 0x6000) := by omega
  simp only [mapAddress, addr_bank_mod, toNat_addr_offset, if_neg hn, if_neg hm, if_neg hi, and_self]

/-- Settles O17: the three ranges that both schemes share. -/
theorem workRamAndIoDecode : Obligations.WorkRamAndIoDecode :=
  fun scheme _ => ⟨mapAddress_wramBanks scheme, mapAddress_wramMirror scheme, mapAddress_io scheme⟩

/-- Settles O18: past the shared ranges the scheme's own layout decides, and each range picks one of its branches. -/
theorem schemeDecode : Obligations.SchemeDecode := by
  intro address b a
  have hA : b < 0x7E → (b < 0x40 → 0x6000 ≤ a) → mapAddress .schemeA address = mapSchemeA b a :=
    fun hb ha => (mapAddress_scheme hb ha).1
  have hB : b < 0x7E → (b < 0x40 → 0x6000 ≤ a) → mapAddress .schemeB address = mapSchemeB b a :=
    fun hb ha => (mapAddress_scheme hb ha).2
  refine ⟨fun h1 h2 h3 => ?openA, fun h1 h2 => ?upperA, fun h1 h2 h3 => ?lowerA, fun h1 h2 h3 => ?sramA,
    fun h1 h2 h3 => ?openB, fun h1 h2 h3 h4 => ?sramB, fun h1 h2 => ?upperB, fun h1 h2 => ?banksB⟩
  case openA => rw [hA (by omega) (by omega), mapSchemeA, if_neg (by omega), if_pos h1]
  case upperA => rw [hA h1 (by omega), mapSchemeA, if_pos h2]
  case lowerA => rw [hA (by omega) (by omega), mapSchemeA, if_neg (by omega), if_neg (by omega), if_pos h2]
  case sramA => rw [hA h2 (by omega), mapSchemeA, if_neg (by omega), if_neg (by omega), if_neg (by omega)]
  case openB => rw [hB (by omega) (by omega), mapSchemeB, if_neg (by omega), if_neg (by omega), if_pos h1]
  case sramB => rw [hB (by omega) (by omega), mapSchemeB, if_neg (by omega), if_neg (by omega), if_neg (by omega)]
  case upperB => rw [hB (by omega) (by omega), mapSchemeB, if_neg (by omega), if_pos h2]
  case banksB => rw [hB h2 (by omega), mapSchemeB, if_pos h1]

end Sys2Proof.Machine
end

section
/-! SUPPORT. A bus access by the region its address decodes to, the I/O window and its callbacks, and accesses of several
bytes (20_memory.md R60 to R70). -/

namespace Sys2Proof.Machine

namespace Bus

variable {b : Bus} {a : Addr} {off : Nat}

theorem mapAddress_of_region {scheme : Scheme} {region : Region} (h : (mapAddress scheme a).1 = region) :
    ∃ off, mapAddress scheme a = (region, off) :=
  ⟨_, Prod.ext h rfl⟩

theorem read_openBus (h : (mapAddress b.scheme a).1 = .openBus) : b.read a = (openBusByte, b) := by
  obtain ⟨off, hm⟩ := mapAddress_of_region h
  simp only [read, hm]

theorem write_openBus (v : Byte) (h : (mapAddress b.scheme a).1 = .openBus) : b.write a v = b := by
  obtain ⟨off, hm⟩ := mapAddress_of_region h
  simp only [write, hm]

/-- A ROM offset at or past ROM_LEN reads the sentinel (R64). -/
theorem read_past_rom (h : (mapAddress b.scheme a).1 = .rom) (hl : b.romLen ≤ (mapAddress b.scheme a).2) :
    b.read a = (openBusByte, b) := by
  obtain ⟨off, hm⟩ := mapAddress_of_region h
  rw [hm] at hl
  simp only [read, hm, if_neg (Nat.not_lt.mpr hl)]

/-- A write to ROM is discarded (R63). -/
theorem write_rom (v : Byte) (h : (mapAddress b.scheme a).1 = .rom) : b.write a v = b := by
  obtain ⟨off, hm⟩ := mapAddress_of_region h
  simp only [write, hm]

theorem read_io (h : mapAddress b.scheme a = (.io, off)) : b.read a = b.ioRead off := by
  simp only [read, h]

theorem write_io (v : Byte) (h : mapAddress b.scheme a = (.io, off)) : b.write a v = b.ioWrite off v := by
  simp only [write, h]

theorem ioRead_of_callback (h : b.readsBack off = true) : b.ioRead off = b.invoke (.read off) := by
  rw [ioRead, if_pos h]

theorem ioRead_of_none (h : b.readsBack off = false) : b.ioRead off = (ioDefault off, b) := by
  simp only [ioRead, h, Bool.false_eq_true, if_false]

theorem ioWrite_of_callback (v : Byte) (h : b.writesBack off = true) : b.ioWrite off v = (b.invoke (.write off v)).2 := by
  rw [ioWrite, if_pos h]

theorem ioWrite_of_none (v : Byte) (h : b.writesBack off = false) : b.ioWrite off v = b := by
  simp only [ioWrite, h, Bool.false_eq_true, if_false]

end Bus

/-- Settles O21: the write leaves the bus, so the read after it is the read before it. -/
theorem romIsImmutable : Obligations.RomIsImmutable := fun b a v h => by
  have hw : b.write a v = b := Bus.write_rom v h
  exact ⟨hw, by rw [hw]⟩

/-- Settles O22, region by region; the built-in status registers are ioDefault (R67). -/
theorem openBusSentinel : Obligations.OpenBusSentinel := fun _ _ v =>
  ⟨fun h => ⟨Bus.read_openBus h, Bus.write_openBus v h⟩, Bus.read_past_rom,
    fun _ h hn => (Bus.read_io h).trans (Bus.ioRead_of_none hn),
    fun _ h hn => (Bus.write_io v h).trans (Bus.ioWrite_of_none v hn)⟩

/-- Settles O23: the access is an invocation, which stands in the record before what the callback invokes itself. -/
theorem callbacksAnswerAndAreRecorded : Obligations.CallbacksAnswerAndAreRecorded := by
  intro b a off v h
  refine ⟨fun hr => ?_, fun hw => ?_⟩
  · rw [Bus.read_io h, Bus.ioRead_of_callback hr]
    exact ⟨rfl, Bus.invoke_events b _⟩
  · rw [Bus.write_io v h, Bus.ioWrite_of_callback v hw]
    exact Bus.invoke_events b _

/-- Settles O24: the entry of the offset is the one registered, every other entry is the one found before. -/
theorem lastRegistrationWins : Obligations.LastRegistrationWins := by
  intro b offset onRead onWrite b'
  have hsame : Handlers.find b'.handlers offset.toNat = some ⟨onRead, onWrite⟩ := Handlers.find_insert_same _ _ _
  refine ⟨by simp only [Bus.readsBack, hsame], by simp only [Bus.writesBack, hsame], fun other hne => ?_⟩
  have hother : Handlers.find b'.handlers other = Handlers.find b.handlers other := Handlers.find_insert_other _ _ hne
  simp only [Bus.readsBack, Bus.writesBack, hother, and_self]

/-- Settles O19: a byte reads back by the laws of peek; the bytes of a word are different locations, so the write of the
high one leaves the low one. -/
theorem ramReadsBack : Obligations.RamReadsBack := by
  intro b a c v w hw hr
  refine ⟨fun hc => Bus.read_of_peek (Bus.peek_write_same hw hr hc),
    fun hc => Bus.peek_write_other hw (Bus.write_ram_quiet v hr) hc, fun hr1 => ?_⟩
  have g : b.Grows (b.write a (loByte w)) := Bus.write_grows b a _
  have hne : locate b.scheme a ≠ locate b.scheme (a + 1) := Bus.locate_succ_ne hr
  rw [← g.scheme] at hr1 hne
  have hlo : (b.write16 a w).peek a = some (loByte w) :=
    (Bus.peek_write_other (g.wf hw) (Bus.write_ram_quiet _ hr1) hne).trans (Bus.peek_write_same hw hr rfl)
  have hhi : (b.write16 a w).peek (a + 1) = some (hiByte w) := Bus.peek_write_same (g.wf hw) hr1 rfl
  rw [Bus.read16_of_peek hlo hhi, mkWord_hiByte_loByte]

theorem toNat_mkLong (hi mid lo : Byte) :
    (mkLong hi mid lo).toNat = hi.toNat * 0x10000 + mid.toNat * 256 + lo.toNat := by
  rw [mkLong, toNat_mkAddr, toNat_mkWord, Nat.add_assoc]

/-- An offset moved on wraps inside its bank (00_scope.md R9). -/
theorem toNat_mkAddr_add (bank : Byte) (o k : Word) :
    (mkAddr bank (o + k)).toNat = bank.toNat * 0x10000 + (o.toNat + k.toNat) % 0x10000 := by
  rw [toNat_mkAddr, BitVec.toNat_add]

/-- Settles O20: the accesses are by definition these byte accesses; their values and addresses are sums of bytes. -/
theorem multiByteAccesses : Obligations.MultiByteAccesses := by
  refine ⟨fun b a v => ?words, fun b bank o => ?pointers⟩
  case words =>
    exact ⟨BitVec.toNat_add a 1, toNat_mkWord _ _, rfl, rfl, toNat_zextWord _, rfl, rfl, rfl, rfl⟩
  case pointers =>
    exact ⟨toNat_mkAddr_add bank o 1, toNat_mkAddr_add bank o 2, toNat_mkWord _ _, rfl, toNat_mkLong _ _ _, rfl⟩

/-- Settles O25, by induction on the number of bytes: the copy recurses at its first byte, the statement at its last. -/
theorem copyGoesByteByByte : Obligations.CopyGoesByteByByte := by
  intro b source dest n
  refine ⟨rfl, ?_⟩
  induction n generalizing b source dest with
  | zero => simp [Bus.dmaCopy]
  | succ n ih =>
    have hnext : ∀ a : Addr, a + 1 + BitVec.ofNat 24 n = a + BitVec.ofNat 24 (n + 1) := by intro a; bv_omega
    have hrest := ih ((b.read source).2.write dest (b.read source).1) (source + 1) (dest + 1)
    rw [hnext, hnext] at hrest
    exact hrest

end Sys2Proof.Machine
end

section
/-! SUPPORT. What the host does between steps: the calls keep the form of the bus, Bus.reset and the loading of a cartridge
(20_memory.md R70 to R75, 70_reset_and_hazards.md R450). -/

namespace Sys2Proof.Machine

theorem Bus.dmaCopy_grows (b : Bus) (source dest : Addr) (n : Nat) : b.Grows (b.dmaCopy source dest n) := by
  induction n generalizing b source dest with
  | zero => exact .refl b
  | succ n ih => exact ((read_grows b source).trans (write_grows _ dest _)).trans (ih _ _ _)

/-- Empty work RAM is well formed. -/
theorem State.busReset_bus_wf {s : State} (h : s.bus.wf = true) : s.busReset.bus.wf = true := by
  rw [Bus.wf_iff] at h ⊢
  obtain ⟨-, -, hs, hsb, hr, hrb, ht⟩ := h
  exact ⟨rfl, rfl, hs, hsb, hr, hrb, ht⟩

/-- An image is a well-formed array inside its length. -/
theorem State.loadCartridge_bus_wf {s : State} (image : List Byte) (h : s.bus.wf = true) :
    (s.loadCartridge image).bus.wf = true := by
  have hbelow : (Memory.ofBytes 0 image).below image.length = true := by
    simpa only [Nat.zero_add] using Memory.ofBytes_below 0 image
  rw [Bus.wf_iff] at h ⊢
  obtain ⟨hw, hwb, hs, hsb, -, -, ht⟩ := h
  exact ⟨hw, hwb, hs, hsb, Memory.ofBytes_risesFrom 0 image, hbelow, ht⟩

/-- CPU.reset clears the request lines, which are no part of the form, and reads the vector. -/
theorem State.cpuReset_bus_wf {s : State} (h : s.bus.wf = true) : s.cpuReset.bus.wf = true :=
  (Bus.readBank2_grows { s.bus with nmiPending := false, irqPending := false } 0x00 0xFFFC).wf h

theorem HostCall.apply_bus_wf {s : State} (call : HostCall) (h : s.bus.wf = true) : (call.apply s).bus.wf = true := by
  cases call with
  | cpuReset => exact State.cpuReset_bus_wf h
  | busReset => exact State.busReset_bus_wf h
  | loadCartridge image => exact State.loadCartridge_bus_wf image h
  | dmaCopy source dest n => exact (s.bus.dmaCopy_grows source dest n).wf h
  | act action =>
    obtain ⟨-, -, -, -, hwf⟩ := HostAction.apply_keeps s.bus action
    exact hwf h

/-- Settles O11: the two halves of the invariant, call by call. -/
theorem hostCallsKeepInvariant : Obligations.HostCallsKeepInvariant :=
  fun call _ ⟨hi, hw⟩ => ⟨call.apply_indexWidthInv hi, call.apply_bus_wf hw⟩

/-- Settles O27: work RAM is the empty array, which reads 0x00 everywhere, and nothing else is written. -/
theorem busResetClearsWorkRam : Obligations.BusResetClearsWorkRam :=
  fun _ => ⟨fun _ => rfl, rfl, rfl, rfl, rfl, rfl, rfl⟩

theorem detectScheme_eq_schemeB_iff (image : List Byte) :
    detectScheme image = .schemeB ↔ headerScore image 0x7FC0 < headerScore image 0xFFC0 := by
  unfold detectScheme
  split
  case isTrue h => exact iff_of_true rfl h
  case isFalse h => exact iff_of_false (by decide) h

/-- Settles O28: the array of an image holds the image, and the loader writes nothing but ROM, ROM_LEN and the scheme. -/
theorem cartridgeIsLoaded : Obligations.CartridgeIsLoaded := by
  intro s image t
  refine ⟨fun i _ => ?_, rfl, detectScheme_eq_schemeB_iff image, rfl⟩
  have h := Memory.read_ofBytes 0 i image
  rwa [Nat.zero_add] at h

end Sys2Proof.Machine
end

section
/-! SUPPORT. The bus over a step (20_memory.md R63, R66, R79, 40_dispatch.md R129): what no step changes, and which
instructions leave all of it where they invoke no callback. -/

namespace Sys2Proof.Machine

/-- A step lets the bus grow, but for the NMI request, which the service of an NMI clears. -/
theorem step_bus {s t : State} (h : step s = .next t) :
    ∃ b : Bus, s.bus.Grows b ∧
      t.bus = if s.stepKind = .service .nmi then { b with nmiPending := false } else b := by
  rcases step_cases h with ⟨hk, rfl⟩ | ⟨kind, hk, rfl⟩ | ⟨hk, hx⟩
  · exact ⟨s.bus, .refl _, by simp [hk, State.idle]⟩
  · obtain ⟨lo, hi, -, -, e⟩ := s.serviceInterrupt_eq kind
    exact ⟨s.pushFrame.bus, s.pushFrame_grows, by simp only [e, hk, StepKind.service.injEq]⟩
  · obtain ⟨n, bus, e, g⟩ := awake_fetch_keeps s
    rw [e] at hx
    exact ⟨t.bus, g.trans (exec_tame hx).bus, by simp [hk]⟩

/-- Settles O13: each clause is one of what it means for the bus to grow; the NMI request alone depends on the kind of
step. -/
theorem stepHostSide : Obligations.StepHostSide := by
  refine ⟨fun s t h => ?cartridge, fun s t h => ?record, fun s t h hq => ?lines⟩ <;> obtain ⟨b, g, e⟩ := step_bus h
  case cartridge => rw [e]; split <;> exact ⟨g.rom, g.romLen, g.scheme⟩
  case record => rw [e]; split <;> exact g.events
  case lines =>
    have hb : b.events = s.bus.events := by rw [← hq, e]; split <;> rfl
    obtain ⟨hh, hn, hi, ho⟩ := g.quiet hb
    rw [e]
    split
    · exact ⟨hi, hh, ho, rfl⟩
    · exact ⟨hi, hh, ho, hn⟩

/-! Instructions that store nothing -/

/-- From s to t the bus is only read: where that invokes no callback, it is as it was. -/
def OnlyReads (s t : State) : Prop := Quiet s t → t.bus = s.bus

theorem State.pop8_quiet {s : State} (h : s.pop8.2.bus.events = s.bus.events) : s.pop8.2.bus = s.bus := (Bus.read_quiet h).1

theorem State.pop16_quiet {s : State} (h : s.pop16.2.bus.events = s.bus.events) : s.pop16.2.bus = s.bus := by
  obtain ⟨h1, h2⟩ := s.pop8_grows.quiet_parts (pop8_grows _) h
  exact (pop8_quiet h2).trans (pop8_quiet h1)

theorem State.popAt_quiet {s : State} {w : Width} (h : (s.popAt w).2.bus.events = s.bus.events) :
    (s.popAt w).2.bus = s.bus := by
  cases w
  · exact pop8_quiet h
  · exact pop16_quiet h

section

variable (base : Nat) (mods : List Modifier) (s : State)

theorem loadA_onlyReads (o : Operand) : OnlyReads s (loadA o base mods s) := fun hq => Operand.read_quiet hq
theorem loadX_onlyReads (o : Operand) : OnlyReads s (loadX o base mods s) := fun hq => Operand.read_quiet hq
theorem loadY_onlyReads (o : Operand) : OnlyReads s (loadY o base mods s) := fun hq => Operand.read_quiet hq
theorem binaryA_onlyReads (f : BinaryOp) (o : Operand) : OnlyReads s (binaryA f o base mods s) :=
  fun hq => Operand.read_quiet hq
theorem compareA_onlyReads (o : Operand) : OnlyReads s (compareA o base mods s) := fun hq => Operand.read_quiet hq
theorem compareX_onlyReads (o : Operand) : OnlyReads s (compareX o base mods s) := fun hq => Operand.read_quiet hq
theorem compareY_onlyReads (o : Operand) : OnlyReads s (compareY o base mods s) := fun hq => Operand.read_quiet hq
theorem testA_onlyReads (o : Operand) : OnlyReads s (testA o base mods s) := fun hq => Operand.read_quiet hq

theorem jumpThrough_onlyReads (bank : Byte) (addr : Word) :
    OnlyReads s (jumpThrough (s.bus.readBank2 bank addr) base mods s) := fun hq => Bus.readBank2_quiet hq
theorem jumpLongThrough_onlyReads (bank : Byte) (addr : Word) :
    OnlyReads s (jumpLongThrough (s.bus.readBank3 bank addr) base mods s) := fun hq => Bus.readBank3_quiet hq

theorem pullA_onlyReads : OnlyReads s (pullA base mods s) := fun hq => State.popAt_quiet hq
theorem pullX_onlyReads : OnlyReads s (pullX base mods s) := fun hq => State.popAt_quiet hq
theorem pullY_onlyReads : OnlyReads s (pullY base mods s) := fun hq => State.popAt_quiet hq
theorem pullP_onlyReads : OnlyReads s (pullP base mods s) := fun hq => State.pop8_quiet hq
theorem pullB_onlyReads : OnlyReads s (pullB base mods s) := fun hq => State.pop8_quiet hq
theorem pullD_onlyReads : OnlyReads s (pullD base mods s) := fun hq => State.pop16_quiet hq
theorem returnNear_onlyReads : OnlyReads s (returnNear base mods s) := fun hq => State.pop16_quiet hq

/-- RTL pulls the offset, then the bank (45_control.md R275). -/
theorem returnLong_onlyReads : OnlyReads s (returnLong base mods s) := by
  intro hq
  obtain ⟨h1, h2⟩ := s.pop16_grows.quiet_parts (State.pop8_grows (s.pop16.2.jump (s.pop16.1 + 1))) hq
  exact (State.pop8_quiet h2).trans (State.pop16_quiet h1)

/-- RTI pulls P, the offset, then the bank (45_control.md R278). -/
theorem returnInterrupt_onlyReads : OnlyReads s (returnInterrupt base mods s) := by
  intro hq
  have g1 : s.bus.Grows s.pop8.2.bus := s.pop8_grows
  have g2 : s.pop8.2.bus.Grows (s.pop8.2.setP s.pop8.1).pop16.2.bus := State.pop16_grows (s.pop8.2.setP s.pop8.1)
  obtain ⟨h12, h3⟩ := (g1.trans g2).quiet_parts (State.pop8_grows
    ((s.pop8.2.setP s.pop8.1).pop16.2.jump (s.pop8.2.setP s.pop8.1).pop16.1)) hq
  obtain ⟨h1, h2⟩ := g1.quiet_parts g2 h12
  exact (State.pop8_quiet h3).trans ((State.pop16_quiet h2).trans (State.pop8_quiet h1))

theorem exchangeCE_bus : (exchangeCE base mods s).bus = s.bus := by
  unfold exchangeCE
  split <;> rfl

end

/-- The opcodes of the rows that write a data operand in memory: the stores and the read-modify-writes. -/
def storingOpcodes : List Byte :=
  staOpcodes ++ stxOpcodes ++ styOpcodes ++ stzOpcodes ++ incOpcodes ++ decOpcodes ++ aslOpcodes ++ lsrOpcodes ++
    rolOpcodes ++ rorOpcodes ++ tsbOpcodes ++ trbOpcodes

/-- The opcodes of the rows that write without a data operand: the block moves, the pushes, the calls and the software
interrupts. -/
def pushingOpcodes : List Byte :=
  [0x54, 0x44, 0x48, 0xDA, 0x5A, 0x08, 0x8B, 0x0B, 0x4B, 0xF4, 0xD4, 0x62, 0x20, 0xFC, 0x22, 0x00, 0x02]

/-- An instruction with a data operand is a load, an operation with A, a compare or a BIT, or it stores. -/
theorem dataOperand_families (i : Instr) : (dataOperand i).isSome = true →
    i.opcode ∈ ldaOpcodes ∨ i.opcode ∈ ldxOpcodes ∨ i.opcode ∈ ldyOpcodes ∨ i.opcode ∈ adcOpcodes ∨
    i.opcode ∈ sbcOpcodes ∨ i.opcode ∈ andOpcodes ∨ i.opcode ∈ oraOpcodes ∨ i.opcode ∈ eorOpcodes ∨
    i.opcode ∈ cmpOpcodes ∨ i.opcode ∈ cpxOpcodes ∨ i.opcode ∈ cpyOpcodes ∨ i.opcode ∈ bitOpcodes ∨
    i.opcode ∈ storingOpcodes := by
  refine of_decide_eq_true ?_
  cases i <;> rfl

theorem exec_onlyReads_of_runs {i : Instr} {s t : State} {f : Nat → List Modifier → State → State} (hr : Runs i f)
    (hf : ∀ base mods, OnlyReads s (f base mods s)) (h : exec i s = .next t) : OnlyReads s t := by
  rw [hr s] at h
  cases h
  exact hf _ _

/-- An instruction with a data operand that it does not store to reads it and nothing else. -/
theorem exec_operand_onlyReads {i : Instr} {o : Operand} {s t : State} (h : exec i s = .next t)
    (ho : dataOperand i = some o) (hn : i.opcode ∉ storingOpcodes) : OnlyReads s t := by
  rcases dataOperand_families i (by rw [ho]; rfl) with hi | hi | hi | hi | hi | hi | hi | hi | hi | hi | hi | hi | hi
  · exact exec_onlyReads_of_runs (runs_lda hi ho) (fun b m => loadA_onlyReads b m s o) h
  · exact exec_onlyReads_of_runs (runs_ldx hi ho) (fun b m => loadX_onlyReads b m s o) h
  · exact exec_onlyReads_of_runs (runs_ldy hi ho) (fun b m => loadY_onlyReads b m s o) h
  · exact exec_onlyReads_of_runs (runs_adc hi ho) (fun b m => binaryA_onlyReads b m s _ o) h
  · exact exec_onlyReads_of_runs (runs_sbc hi ho) (fun b m => binaryA_onlyReads b m s _ o) h
  · exact exec_onlyReads_of_runs (runs_and hi ho) (fun b m => binaryA_onlyReads b m s _ o) h
  · exact exec_onlyReads_of_runs (runs_ora hi ho) (fun b m => binaryA_onlyReads b m s _ o) h
  · exact exec_onlyReads_of_runs (runs_eor hi ho) (fun b m => binaryA_onlyReads b m s _ o) h
  · exact exec_onlyReads_of_runs (runs_cmp hi ho) (fun b m => compareA_onlyReads b m s o) h
  · exact exec_onlyReads_of_runs (runs_cpx hi ho) (fun b m => compareX_onlyReads b m s o) h
  · exact exec_onlyReads_of_runs (runs_cpy hi ho) (fun b m => compareY_onlyReads b m s o) h
  · exact exec_onlyReads_of_runs (runs_bit hi ho) (fun b m => testA_onlyReads b m s o) h
  · exact absurd hi hn

/-- An instruction without a data operand that does not push or move reads a jump's pointer, pulls, or does not access the
bus. -/
theorem exec_implied_onlyReads {i : Instr} {s t : State} (h : exec i s = .next t) (ho : dataOperand i = none)
    (hn : i.opcode ∉ pushingOpcodes) : OnlyReads s t := by
  cases i
  case brk | cop | mvn | mvp | pha | phx | phy | php | phb | phd | phk | pea | pei | per | jsrAbs | jsrIndX | jsl =>
    exact absurd (List.mem_of_elem_eq_true rfl) hn
  case jmpInd | jmpIndX => cases h; exact jumpThrough_onlyReads _ _ s _ _
  case jmlInd => cases h; exact jumpLongThrough_onlyReads _ _ s _ _
  case pla => cases h; exact pullA_onlyReads _ _ s
  case plx => cases h; exact pullX_onlyReads _ _ s
  case ply => cases h; exact pullY_onlyReads _ _ s
  case plp => cases h; exact pullP_onlyReads _ _ s
  case plb => cases h; exact pullB_onlyReads _ _ s
  case pld => cases h; exact pullD_onlyReads _ _ s
  case rts => cases h; exact returnNear_onlyReads _ _ s
  case rtl => cases h; exact returnLong_onlyReads _ _ s
  case rti => cases h; exact returnInterrupt_onlyReads _ _ s
  case xce => cases h; exact fun _ => exchangeCE_bus _ _ s
  case bpl | bmi | bvc | bvs | bra | bcc | bcs | bne | beq | brl | jmpAbs | jmlLong | aslAcc | lsrAcc | rolAcc | rorAcc |
      incAcc | decAcc | inx | iny | dex | dey | tax | tay | txa | tya | txy | tyx | txs | tsx | tcs | tsc | tcd | tdc | xba |
      clc | sec | cli | sei | cld | sed | clv | rep | sep | nop | wdm | wai | stp =>
    cases h; exact fun _ => rfl
  all_goals cases ho

/-- Settles O57, by whether the instruction has a data operand. -/
theorem otherInstructionsKeepMemory : Obligations.OtherInstructionsKeepMemory := by
  intro i s t h hq hn
  obtain ⟨hs, hp⟩ : i.opcode ∉ storingOpcodes ∧ i.opcode ∉ pushingOpcodes := by
    rw [← not_or, ← List.mem_append]
    exact hn
  cases ho : dataOperand i with
  | none => exact exec_implied_onlyReads h ho hp hq
  | some o => exact exec_operand_onlyReads h ho hs hq

end Sys2Proof.Machine
end

section
/-! SUPPORT. The decoder and the encoder invert each other (30_encoding.md R100 to R105): the bytes of an instruction by
the format of its row in the opcode map, and decoding as the splitting of a byte string. -/

namespace Sys2Proof

open Machine

/-- A byte as one of 256 values, to go through the rows of the opcode map. -/
theorem byte_eq_ofNat (op : Byte) : ∃ n, n < 256 ∧ op = BitVec.ofNat 8 n := ⟨op.toNat, op.isLt, by simp⟩

/-! The encoder by the rows of the opcode map -/

namespace OperandBytes

variable (o : OperandBytes)

@[simp] theorem loByte_word : loByte o.word = o.b1 := loByte_mkWord _ _
@[simp] theorem hiByte_word : hiByte o.word = o.b2 := hiByte_mkWord _ _
@[simp] theorem bank_long : o.long.bank = o.b3 := bank_mkAddr _ _
@[simp] theorem offset_long : o.long.offset = o.word := offset_mkAddr _ _

@[simp] theorem immM_bytes : o.immM.bytes = if o.m then [o.b1] else [o.b1, o.b2] := by
  unfold immM
  split <;> simp [Imm.bytes]

@[simp] theorem immX_bytes : o.immX.bytes = if o.x then [o.b1] else [o.b1, o.b2] := by
  unfold immX
  split <;> simp [Imm.bytes]

end OperandBytes

/-- The bytes that the operand of a format encodes to (30_encoding.md R101, R102). -/
def Format.bytes (o : OperandBytes) : Format → List Byte
  | .imp | .acc => []
  | .imm8 | .brk | .wdm | .rel8 | .sr | .srindy => [o.b1]
  | .dp | .dpx | .dpy | .dpind | .dpindx | .dpindy | .dpindl | .dpindly => [o.b1]
  | .immM => o.immM.bytes
  | .immX => o.immX.bytes
  | .imm16 | .rel16 => [loByte o.word, hiByte o.word]
  | .abs | .absx | .absy | .absind | .absindx | .absindl | .pcabs => [loByte o.word, hiByte o.word]
  | .absl | .abslx | .pclong => [loByte o.long.offset, hiByte o.long.offset, o.long.bank]
  | .blk => [o.b1, o.b2]

/-- Taking an assembled operand apart gives the bytes it was assembled from, as many as the format counts. -/
theorem Format.bytes_eq_take (o : OperandBytes) (f : Format) :
    f.bytes o = [o.b1, o.b2, o.b3].take (f.operandBytes o.m o.x) := by
  cases f
  case immM => simp only [bytes, operandBytes, OperandBytes.immM_bytes]; split <;> rfl
  case immX => simp only [bytes, operandBytes, OperandBytes.immX_bytes]; split <;> rfl
  all_goals simp [bytes, operandBytes]

theorem encode_opcodeMap_format (op : Byte) (o : OperandBytes) :
    encode (opcodeMap op o).2 = op :: (opcodeMap op o).1.bytes o := by
  obtain ⟨n, hn, rfl⟩ := byte_eq_ofNat op
  interval_cases n <;> rfl

/-- The format of a row does not depend on the operand bytes. (Said by `decide`, so that each row is evaluated: comparing
two applications of the opcode map as terms is slow in the kernel.) -/
theorem format_opcodeMap (op : Byte) (o : OperandBytes) :
    (opcodeMap op o).1 = (opcodeMap op ⟨o.m, o.x, 0, 0, 0⟩).1 := by
  refine of_decide_eq_true ?_
  obtain ⟨n, hn, rfl⟩ := byte_eq_ofNat op
  interval_cases n <;> rfl

/-- The instruction that an opcode's row makes of three bytes encodes to the opcode and those of the bytes it takes. -/
theorem encode_opcodeMap (op : Byte) (o : OperandBytes) :
    encode (opcodeMap op o).2 = op :: [o.b1, o.b2, o.b3].take (operandCount o.m o.x op) := by
  rw [encode_opcodeMap_format, Format.bytes_eq_take, operandCount, ← format_opcodeMap]

/-- The immediate in a row of the opcode map has the width that its flag selects (30_encoding.md R102). -/
theorem wellFormed_opcodeMap (op : Byte) (o : OperandBytes) : (opcodeMap op o).2.wellFormed o.m o.x = true := by
  obtain ⟨m, x, b1, b2, b3⟩ := o
  obtain ⟨n, hn, rfl⟩ := byte_eq_ofNat op
  cases m <;> cases x <;> interval_cases n <;> rfl

/-! The decoder -/

/-- The bytes that `assemble` looks at are its operand bytes, where there are no more than three. -/
theorem take_length_getD {args : List Byte} (h : args.length ≤ 3) :
    [args.getD 0 0, args.getD 1 0, args.getD 2 0].take args.length = args := by
  match args, h with
  | [], _ | [_], _ | [_, _], _ | [_, _, _], _ => rfl

/-- Operand bytes, as many as the opcode takes, make an instruction that encodes to them. -/
theorem encode_assemble {m x : Bool} {op : Byte} {args : List Byte} (h : args.length = operandCount m x op) :
    encode (assemble m x op args) = op :: args := by
  have hle : args.length ≤ 3 := h ▸ operandCount_le m x op
  rw [assemble, encode_opcodeMap, ← h, take_length_getD hle]

/-- The decoder splits a string behind the opcode at the number of operand bytes that the opcode takes. -/
theorem decode_eq_ok_iff {m x : Bool} {bytes rest : List Byte} {i : Instr} :
    decode m x bytes = .ok (i, rest) ↔
      ∃ op args, args.length = operandCount m x op ∧ bytes = op :: (args ++ rest) ∧ i = assemble m x op args := by
  constructor
  · intro h
    cases bytes with
    | nil => cases h
    | cons op tail =>
      rw [decode] at h
      split at h
      case isTrue => cases h
      case isFalse hn =>
        cases h
        exact ⟨op, tail.take (operandCount m x op), List.length_take_of_le (Nat.not_lt.mp hn), by simp, rfl⟩
  · rintro ⟨op, args, hl, rfl, rfl⟩
    simp [decode, ← hl]

/-- Settles O1: the operand bytes of a well-formed instruction are as many as its opcode takes, and assemble to it. -/
theorem decodeInvertsEncode : Obligations.DecodeInvertsEncode := by
  intro m x i rest h
  obtain ⟨hi, hl⟩ := assemble_encode h
  refine decode_eq_ok_iff.mpr ⟨i.opcode, (encode i).tail, hl, ?_, hi.symm⟩
  rw [← List.cons_append, ← encode_eq_cons]

/-- Settles O2: the bytes read are an opcode with its operand bytes, and the instruction is the opcode's row fed them. -/
theorem encodeInvertsDecode : Obligations.EncodeInvertsDecode := by
  intro m x bytes i rest h
  obtain ⟨op, args, hl, rfl, rfl⟩ := decode_eq_ok_iff.mp h
  exact ⟨wellFormed_opcodeMap op _, by rw [encode_assemble hl, List.cons_append]⟩

/-- Three bytes after an opcode are enough, and those it does not take are left. -/
theorem decode_three_operands (m x : Bool) (op b1 b2 b3 : Byte) :
    decode m x [op, b1, b2, b3] =
      .ok ((opcodeMap op ⟨m, x, b1, b2, b3⟩).2, [b1, b2, b3].drop (operandCount m x op)) := by
  have h := decodeInvertsEncode m x _ ([b1, b2, b3].drop (operandCount m x op))
    (wellFormed_opcodeMap op ⟨m, x, b1, b2, b3⟩)
  rwa [encode_opcodeMap, List.cons_append, List.take_append_drop] at h

/-- Settles O3: the rows of the statement are rows of the opcode map, and an opcode outside them has no data operand. -/
theorem everyOpcodeIsAnInstruction : Obligations.EveryOpcodeIsAnInstruction := by
  intro m x op b1 b2 b3 addr long rows
  refine ⟨_, _, decode_three_operands m x op b1 b2 b3, opcode_opcodeMap op _,
    fun row hrow hop => ?listed, fun hn => ?others⟩
  case listed =>
    have hrows : ∀ row ∈ rows, ∀ op ∈ row.1, dataOperand (opcodeMap op ⟨m, x, b1, b2, b3⟩).2 = some row.2 := by
      simp only [rows, List.forall_mem_cons, List.not_mem_nil, false_implies, implies_true, and_true]
      and_intros <;> rfl
    exact hrows row hrow op hop
  case others =>
    have hcover : dataOperand (opcodeMap op ⟨m, x, b1, b2, b3⟩).2 = none ∨ op ∈ rows.flatMap Prod.fst := by
      refine of_decide_eq_true ?_
      obtain ⟨n, hn, rfl⟩ := byte_eq_ofNat op
      interval_cases n <;> rfl
    refine hcover.resolve_right fun hop => ?_
    obtain ⟨row, hrow, hmem⟩ := List.mem_flatMap.mp hop
    exact hn row hrow hmem

/-- The operand bytes of the immediate forms and of the fixed-length forms with a byte or a word (30_encoding.md R102). -/
theorem operandCount_immediates (m x : Bool) :
    (∀ op ∈ ([0x09, 0x29, 0x49, 0x69, 0x89, 0xA9, 0xC9, 0xE9] : List Byte), operandCount m x op = if m then 1 else 2) ∧
    (∀ op ∈ ([0xA0, 0xA2, 0xC0, 0xE0] : List Byte), operandCount m x op = if x then 1 else 2) ∧
    (∀ op ∈ ([0xC2, 0xE2, 0x00, 0x02, 0x42] : List Byte), operandCount m x op = 1) ∧
    operandCount m x 0xF4 = 2 := by
  revert m x
  decide

/-- Settles O4: a well-formed instruction is one byte longer than the operand that its opcode takes. -/
theorem lengthFollowsWidthFlags : Obligations.LengthFollowsWidthFlags := by
  intro m x i h
  obtain ⟨-, hl⟩ := Laws.Fields.all i m x h
  obtain ⟨hm, hx, hbyte, hword⟩ := operandCount_immediates m x
  refine ⟨fun ho => ?widthM, fun ho => ?widthX, fun ho => ?oneByte, fun ho => ?twoBytes⟩
  case widthM => rw [hl, hm _ ho]; split <;> rfl
  case widthX => rw [hl, hx _ ho]; split <;> rfl
  case oneByte => rw [hl, hbyte _ ho]
  case twoBytes => rw [hl, ho, hword]

end Sys2Proof
end

section
/-! SUPPORT. What a step is (40_dispatch.md R120 to R125, 60_exceptions.md R403) and what it is charged (30_encoding.md
R105, 70_reset_and_hazards.md R460): the choice at its top, the fetch of an instruction that stands at PBR:PC, and the
bounds of its cycles. -/

namespace Sys2Proof.Machine

/-! The cycles of a step -/

/-- The most that a modifier adds, in any state and whatever the operand and the branch do. -/
def Modifier.maxCost : Modifier → Nat
  | .m2 | .br => 2
  | .m1 | .x1 | .dl | .px | .bra | .e1 => 1
  | .mv => 0

theorem Modifier.cost_le_maxCost (s : State) (facts : CycleFacts) (m : Modifier) : m.cost s facts ≤ m.maxCost := by
  cases m
  case mv => exact Nat.le_refl 0
  all_goals
    simp only [cost, maxCost]
    split_ifs <;> decide

/-- A charge is no less than its base, and no more than its base with every modifier at its most. -/
theorem charge_bounds (s : State) (base : Nat) (mods : List Modifier) (facts : CycleFacts) :
    base ≤ charge s base mods facts ∧ charge s base mods facts ≤ base + (mods.map Modifier.maxCost).sum :=
  ⟨Nat.le_add_right _ _, Nat.add_le_add_left (List.sum_le_sum fun m _ => m.cost_le_maxCost s facts) base⟩

/-- The rows of the opcode table: sixteen to a nibble, each with a base of at least 1, and none above 9 with every modifier
at its most. -/
theorem cycleRows_bounds :
    ∀ row ∈ cycleRows, row.length = 16 ∧ ∀ r ∈ row, 1 ≤ r.1 ∧ r.1 + (r.2.map Modifier.maxCost).sum ≤ 9 := by
  decide

theorem opcodeCycles_bounds (op : Byte) :
    1 ≤ (opcodeCycles op).1 ∧ (opcodeCycles op).1 + ((opcodeCycles op).2.map Modifier.maxCost).sum ≤ 9 := by
  have hrow : op.toNat / 16 < cycleRows.length := Nat.div_lt_of_lt_mul op.isLt
  obtain ⟨hlen, hbounds⟩ := cycleRows_bounds _ (List.getElem_mem hrow)
  have hcol : op.toNat % 16 < cycleRows[op.toNat / 16].length := by omega
  rw [opcodeCycles, List.getD_eq_getElem _ _ hrow, List.getD_eq_getElem _ _ hcol]
  exact hbounds _ (List.getElem_mem hcol)

theorem exec_cycles {i : Instr} {s t : State} (h : exec i s = .next t) :
    s.cycles + 1 ≤ t.cycles ∧ t.cycles ≤ s.cycles + 9 := by
  obtain ⟨facts, hc⟩ := exec_charged h
  obtain ⟨hbase, hmost⟩ := opcodeCycles_bounds i.opcode
  obtain ⟨hlo, hhi⟩ := charge_bounds s (opcodeCycles i.opcode).1 (opcodeCycles i.opcode).2 facts
  rw [hc]
  omega

theorem step_next (s : State) : ∃ t, step s = .next t := by
  unfold step
  split
  · exact ⟨_, rfl⟩
  · exact ⟨_, rfl⟩
  · exact exec_next _ _

theorem State.serviceInterrupt_cycles (s : State) (kind : Interrupt) :
    (s.serviceInterrupt kind).cycles = s.cycles + 7 := by
  obtain ⟨lo, hi, -, -, e⟩ := s.serviceInterrupt_eq kind
  rw [e]

/-- An idle step is charged 1, a service 7, and an instruction by its row; the fetch is not charged apart. -/
theorem step_cycles {s t : State} (h : step s = .next t) : s.cycles + 1 ≤ t.cycles ∧ t.cycles ≤ s.cycles + 9 := by
  rcases step_cases h with ⟨-, rfl⟩ | ⟨kind, -, rfl⟩ | ⟨-, hx⟩
  · rw [State.idle_cycles]
    omega
  · rw [State.serviceInterrupt_cycles]
    omega
  · obtain ⟨n, bus, e, -⟩ := awake_fetch_keeps s
    rw [e] at hx
    simpa using exec_cycles hx

/-- Settles O8: no kind of step stops, and the charge of each is within the bounds. -/
theorem everyStepGivesNextState : Obligations.EveryStepGivesNextState := by
  intro s
  obtain ⟨t, h⟩ := step_next s
  exact ⟨t, h, step_cycles h⟩

/-! The instruction that a step runs -/

theorem step_of_idle {s : State} (h : s.stepKind = .idle) : step s = .next s.idle := by rw [step, h]

theorem step_of_instruction {s : State} (h : s.stepKind = .instruction) :
    step s = exec s.awake.fetchInstr.1 s.awake.fetchInstr.2 := by rw [step, h]

/-- A well-formed instruction whose bytes stand at PBR:PC is fetched as it is, and PC moves past its bytes: its opcode says
how many operand bytes to fetch, and they assemble to it. -/
theorem State.fetchInstr_of_codeAt {s : State} {i : Instr} (hw : i.wellFormed (flag s.p .m) (flag s.p .x) = true)
    (hc : CodeAt s (encode i)) :
    s.fetchInstr = (i, { s with pc := s.pc + BitVec.ofNat 16 (encode i).length }) := by
  obtain ⟨hi, hl⟩ := assemble_encode hw
  have hf : s.fetchBytes ((encode i).tail.length + 1) =
      (i.opcode :: (encode i).tail, { s with pc := s.pc + BitVec.ofNat 16 (encode i).length }) := by
    rw [← encode_eq_cons, ← fetchBytes_of_peek hc, ← List.length_cons, ← encode_eq_cons]
  obtain ⟨hbytes, hs⟩ := Prod.mk.inj hf
  obtain ⟨hop, hargs⟩ := List.cons.inj hbytes
  simp only [fetchInstr, hop, ← hl, hargs, hs, hi]

/-- Settles O6: the step runs what it fetches, which is the instruction that stands there. -/
theorem stepRunsDecodedInstruction : Obligations.StepRunsDecodedInstruction := by
  intro s i hk hw hc
  have hf : s.awake.fetchInstr = _ := State.fetchInstr_of_codeAt (s := s.awake) hw hc
  rw [step_of_instruction hk, hf]
  rfl

/-! The choice at the top of a step -/

namespace State

variable {s : State}

theorem stepKind_of_nmi (hs : s.stopped = false) (hn : s.bus.nmiPending = true) : s.stepKind = .service .nmi := by
  simp [stepKind, hs, hn]

theorem stepKind_of_irq (hs : s.stopped = false) (hn : s.bus.nmiPending = false) (hq : s.bus.irqPending = true)
    (hi : flag s.p .i = false) : s.stepKind = .service .irq := by
  simp [stepKind, hs, hn, hq, hi]

theorem stepKind_of_masked_irq (hs : s.stopped = false) (hn : s.bus.nmiPending = false) (hq : s.bus.irqPending = true)
    (hi : flag s.p .i = true) : s.stepKind = .instruction := by
  simp [stepKind, hs, hn, hq, hi]

theorem stepKind_of_waiting (hs : s.stopped = false) (hn : s.bus.nmiPending = false) (hq : s.bus.irqPending = false)
    (hw : s.waiting = true) : s.stepKind = .idle := by
  simp [stepKind, hs, hn, hq, hw]

theorem stepKind_of_running (hs : s.stopped = false) (hn : s.bus.nmiPending = false) (hq : s.bus.irqPending = false)
    (hw : s.waiting = false) : s.stepKind = .instruction := by
  simp [stepKind, hs, hn, hq, hw]

end State

/-- Settles O7: each clause is a branch of the choice, and an idle step adds its cycle alone. -/
theorem stepFollowsPriority : Obligations.StepFollowsPriority := fun _ =>
  ⟨fun hs => step_of_idle (State.stepKind_of_stopped hs), State.stepKind_of_nmi, State.stepKind_of_irq,
    fun hs hn hq hw => step_of_idle (State.stepKind_of_waiting hs hn hq hw), State.stepKind_of_running,
    State.stepKind_of_masked_irq⟩

end Sys2Proof.Machine
end

section
/-! SUPPORT. Effective addresses as numbers (41_addressing.md R142 to R157), the operands read at them (R141, R148), and
which modes read a pointer. -/

namespace Sys2Proof.Machine

/-! Sums of a base and an index -/

theorem toNat_mkAddr_bank0 (o : Word) : (mkAddr 0x00 o).toNat = o.toNat := by
  rw [toNat_mkAddr]
  exact Nat.zero_add _

/-- An index added to a whole address: a 24-bit sum (R150, R155). -/
theorem toNat_add_zextAddr (a : Addr) (index : Word) :
    (a + zextAddr index).toNat = (a.toNat + index.toNat) % 0x1000000 := by
  rw [BitVec.toNat_add, toNat_zextAddr]

theorem toNat_indexed (bank : Byte) (base index : Word) :
    (indexed bank base index).toNat = (bank.toNat * 0x10000 + base.toNat + index.toNat) % 0x1000000 := by
  rw [indexed, toNat_add_zextAddr, toNat_mkAddr]

theorem crossesPage_iff (base index : Word) :
    crossesPage base index = true ↔ (base.toNat + index.toNat) / 256 ≠ base.toNat / 256 := bne_iff_ne

namespace State

variable (s : State) (off : Byte)

theorem toNat_direct : (s.direct off).toNat = (s.d.toNat + off.toNat) % 0x10000 := by
  rw [direct, BitVec.toNat_add, toNat_zextWord]

/-- The index is added to the location before the wrap, or after it: the sum is the same. -/
theorem toNat_direct_add (index : Word) :
    (s.direct off + index).toNat = (s.d.toNat + off.toNat + index.toNat) % 0x10000 := by
  rw [BitVec.toNat_add, toNat_direct, Nat.mod_add_mod]

theorem toNat_stackRelative : (s.stackRelative off).toNat = (s.sp.toNat + off.toNat) % 0x10000 := by
  rw [stackRelative, BitVec.toNat_add, toNat_zextWord]

end State

/-- Settles O29: each mode's address is by definition one of the sums above. -/
theorem directModes : Obligations.DirectModes := by
  refine ⟨fun s off => ⟨?dp, ?dpX, ?dpY, ?sr⟩, fun s addr long => ?absolute⟩
  case dp => exact (toNat_mkAddr_bank0 _).trans (s.toNat_direct off)
  case dpX => exact (toNat_mkAddr_bank0 _).trans (s.toNat_direct_add off s.getX)
  case dpY => exact (toNat_mkAddr_bank0 _).trans (s.toNat_direct_add off s.getY)
  case sr => exact (toNat_mkAddr_bank0 _).trans (s.toNat_stackRelative off)
  case absolute =>
    exact ⟨toNat_mkAddr _ _, toNat_indexed _ _ _, toNat_indexed _ _ _, rfl, toNat_add_zextAddr _ _,
      crossesPage_iff _ _, crossesPage_iff _ _⟩

/-- Settles O30: the numbers fix where the pointer is; from there on each mode is its definition. -/
theorem indirectModes : Obligations.IndirectModes := by
  intro s off p ptr far
  refine ⟨fun hp => ?direct, fun hp => ?directIndexed, fun hp => ?stackRelative⟩
  case direct =>
    obtain rfl : p = s.direct off := BitVec.eq_of_toNat_eq (hp.trans (s.toNat_direct off).symm)
    exact ⟨toNat_mkAddr _ _, rfl, toNat_indexed _ _ _, rfl, crossesPage_iff _ _, rfl, rfl, toNat_add_zextAddr _ _, rfl⟩
  case directIndexed =>
    obtain rfl : p = s.direct off + s.getX := BitVec.eq_of_toNat_eq (hp.trans (s.toNat_direct_add off s.getX).symm)
    exact ⟨toNat_mkAddr _ _, rfl⟩
  case stackRelative =>
    obtain rfl : p = s.stackRelative off := BitVec.eq_of_toNat_eq (hp.trans (s.toNat_stackRelative off).symm)
    exact ⟨toNat_indexed _ _ _, rfl⟩

/-! Operands -/

theorem Operand.read_mem (s : State) (w : Width) (mode : AddrMode) :
    (Operand.mem mode).read s w =
      ⟨((mode.resolve s).bus.readAt w (mode.resolve s).ea).1, (mode.resolve s).crossed,
        ((mode.resolve s).bus.readAt w (mode.resolve s).ea).2⟩ := rfl

theorem Operand.read_imm_byte (s : State) (v : Byte) :
    (Operand.imm (.byte v)).read s .w8 = ⟨zextWord v, false, s.bus⟩ := by
  rw [read, immValue, Width.trunc, loByte_zextWord]

theorem Operand.read_imm_word (s : State) (v : Word) : (Operand.imm (.word v)).read s .w16 = ⟨v, false, s.bus⟩ := rfl

/-- Whether a mode finds its operand through a pointer in memory (R145 to R150, R157). -/
def AddrMode.isIndirect : AddrMode → Bool
  | .dpInd _ | .dpIndX _ | .dpIndY _ | .dpIndL _ | .dpIndLY _ | .srIndY _ => true
  | .dp _ | .dpX _ | .dpY _ | .abs _ | .absX _ | .absY _ | .long _ | .longX _ | .sr _ => false

/-- Only a pointer is read to find an operand. -/
theorem AddrMode.resolve_bus_of_direct {mode : AddrMode} (s : State) (h : mode.isIndirect = false) :
    (mode.resolve s).bus = s.bus := by
  cases mode
  case dpInd | dpIndX | dpIndY | dpIndL | dpIndLY | srIndY => cases h
  all_goals rfl

/-- Settles O32: the law of each kind of operand; the modes listed are those without a pointer. -/
theorem operandReadAtWidth : Obligations.OperandReadAtWidth := by
  refine ⟨fun s mode w b v => ?operand, fun s off addr long mode hm => ?noPointer⟩
  case operand =>
    rw [Operand.read_mem, Operand.read_imm_byte, Operand.read_imm_word]
    exact ⟨rfl, rfl, rfl, toNat_zextWord b, rfl, rfl, rfl⟩
  case noPointer =>
    refine AddrMode.resolve_bus_of_direct s ?_
    simp only [List.mem_cons, List.not_mem_nil, or_false] at hm
    rcases hm with rfl | rfl | rfl | rfl | rfl | rfl | rfl | rfl | rfl <;> rfl

end Sys2Proof.Machine
end

section
/-! SUPPORT. Jumps without a condition (41_addressing.md R160 to R166, 45_control.md R268 to R271): where each goes, what
it reads on the way, and its cycles. -/

namespace Sys2Proof.Machine

/-- BRA costs one cycle more across a page in emulation mode (70_reset_and_hazards.md R468). -/
theorem charge_bra (s : State) (base : Nat) (target : Word) (taken : Bool) :
    charge s base [.bra] { taken := taken, otherPage := hiByte target != hiByte s.pc } =
      base + if s.e = true ∧ target.toNat / 256 ≠ s.pc.toNat / 256 then 1 else 0 := by
  simp only [charge, List.map_cons, List.map_nil, List.sum_cons, List.sum_nil, Nat.add_zero, Modifier.cost,
    Bool.and_eq_true, hiByte_bne]

/-- The pointer of (abs,X) is at the 16-bit sum, in the program bank (41_addressing.md R163). -/
theorem State.indexedTarget_eq {s : State} {addr q : Word} (h : q.toNat = (addr.toNat + s.getX.toNat) % 0x10000) :
    s.indexedTarget addr = s.bus.readBank2 s.pbr q := by
  obtain rfl : q = addr + s.getX := BitVec.eq_of_toNat_eq (h.trans (BitVec.toNat_add _ _).symm)
  rfl

/-- Settles O45: each form is one of the shared jumps, with its law of what it keeps. -/
theorem jumps : Obligations.Jumps := by
  refine ⟨fun s off rel addr long => ⟨?bra, ?brl, ?jmpAbs, ?jmlLong⟩, fun s addr => ⟨?jmpInd, ?jmpIndX, ?jmlInd⟩⟩
  case bra =>
    refine ⟨_, rfl, toNat_add_sextWord s.pc off, branchIf_keeps _ _ s true off, rfl, ?_⟩
    rw [Nat.add_assoc]
    exact congrArg (s.cycles + ·) (charge_bra s 3 (s.relTarget off) true)
  case brl => exact ⟨_, rfl, BitVec.toNat_add _ _, jumpTo_keeps _ _ s _, rfl, rfl⟩
  case jmpAbs => exact ⟨_, rfl, rfl, jumpTo_keeps _ _ s addr, rfl, rfl⟩
  case jmlLong =>
    exact ⟨_, rfl, toNat_addr_bank long, toNat_addr_offset long, jumpLongThrough_keeps _ _ s _, rfl, rfl⟩
  case jmpInd => exact ⟨_, rfl, rfl, jumpThrough_keeps _ _ s _, rfl⟩
  case jmpIndX => exact ⟨_, rfl, jumpThrough_keeps _ _ s _, rfl, fun q hq => State.indexedTarget_eq hq⟩
  case jmlInd =>
    exact ⟨_, rfl, jumpLongThrough_keeps _ _ s _, rfl, toNat_addr_offset _, toNat_addr_bank _, rfl⟩

end Sys2Proof.Machine
end

section
/-! SUPPORT. The stores, the read-modify-writes and the block moves by what they write of memory (41_addressing.md R148,
42_load_store_transfer.md R183 to R186, R200, R201; 43_alu.md R253). -/

namespace Sys2Proof.Machine

/-- A block move that invokes no callback leaves every byte but the one at dst:Y. -/
theorem blockMove_memory (dst src : Byte) (delta : Word) (base : Nat) (mods : List Modifier) {s : State}
    (hw : s.bus.wf = true) (hq : Quiet s (blockMove dst src delta base mods s)) :
    MemoryKeptBut [mkAddr dst s.getY] s (blockMove dst src delta base mods s) := by
  obtain ⟨hread, hwrite⟩ := (Bus.read_grows s.bus (mkAddr src s.getX)).quiet_parts (Bus.write_grows _ _ _) hq
  have hbus := (Bus.read_quiet hread).1
  intro a ha
  show ((s.bus.read _).2.write _ _).peek a = _
  rw [hbus] at hwrite ⊢
  exact Bus.peek_write_other hw hwrite (ha _ List.mem_cons_self)

section

variable {i : Instr} {mode : AddrMode}

/-- The stores of A and of zero, as stores at width wM. -/
theorem runs_storeAt_wM (ho : dataOperand i = some (.mem mode)) (h : i.opcode ∈ staOpcodes ++ stzOpcodes) :
    ∃ v : State → Word, Runs i fun base mods s => storeAt mode s.wM (v s) base mods s := by
  rcases List.mem_append.mp h with h | h
  · exact ⟨State.getA, runs_sta h ho⟩
  · exact ⟨fun _ => 0, runs_stz h ho⟩

/-- The stores of X and of Y, as stores at width wX. -/
theorem runs_storeAt_wX (ho : dataOperand i = some (.mem mode)) (h : i.opcode ∈ stxOpcodes ++ styOpcodes) :
    ∃ v : State → Word, Runs i fun base mods s => storeAt mode s.wX (v s) base mods s := by
  rcases List.mem_append.mp h with h | h
  · exact ⟨State.getX, runs_stx h ho⟩
  · exact ⟨State.getY, runs_sty h ho⟩

/-- The read-modify-writes, each by its computation, which for TSB and TRB looks at A. -/
theorem runs_modifyMemory (ho : dataOperand i = some (.mem mode))
    (h : i.opcode ∈ incOpcodes ++ decOpcodes ++ aslOpcodes ++ lsrOpcodes ++ rolOpcodes ++ rorOpcodes ++ tsbOpcodes ++
      trbOpcodes) :
    ∃ f : State → UnaryOp, Runs i fun base mods s => modifyMemory (f s) mode base mods s := by
  simp only [List.mem_append, or_assoc] at h
  rcases h with h | h | h | h | h | h | h | h
  · exact ⟨_, runs_inc h ho⟩
  · exact ⟨_, runs_dec h ho⟩
  · exact ⟨_, runs_asl h ho⟩
  · exact ⟨_, runs_lsr h ho⟩
  · exact ⟨_, runs_rol h ho⟩
  · exact ⟨_, runs_ror h ho⟩
  · exact ⟨_, runs_tsb h ho⟩
  · exact ⟨_, runs_trb h ho⟩

end

/-- What the shared operation leaves of memory, the instruction that runs it leaves. -/
theorem memoryKeptBut_of_runs {i : Instr} {s t : State} {stored : List Addr} {f : Nat → List Modifier → State → State}
    (hr : Runs i f) (hf : ∀ base mods, Quiet s (f base mods s) → MemoryKeptBut stored s (f base mods s))
    (h : exec i s = .next t) (hq : Quiet s t) : MemoryKeptBut stored s t := by
  rw [hr s] at h
  cases h
  exact hf _ _ hq

/-- Settles O58: every store and read-modify-write is one of the two shared operations at its width, and both block moves
are one. -/
theorem storesWriteOnlyTheirBytes : Obligations.StoresWriteOnlyTheirBytes := by
  intro i s t hw h hq
  refine ⟨fun mode ho hop => ?widthM, fun mode ho hop => ?widthX, fun dst src hi => ?blockMoves⟩
  case widthM =>
    have hsplit : i.opcode ∈ staOpcodes ++ stzOpcodes ∨
        i.opcode ∈ incOpcodes ++ decOpcodes ++ aslOpcodes ++ lsrOpcodes ++ rolOpcodes ++ rorOpcodes ++ tsbOpcodes ++
          trbOpcodes := by
      simpa only [List.mem_append, or_assoc] using hop
    rcases hsplit with hstore | hmodify
    · obtain ⟨v, hr⟩ := runs_storeAt_wM ho hstore
      exact memoryKeptBut_of_runs hr (fun base mods => storeAt_memory mode s.wM (v s) base mods hw) h hq
    · obtain ⟨f, hr⟩ := runs_modifyMemory ho hmodify
      exact memoryKeptBut_of_runs hr (fun base mods => modifyMemory_memory (f s) mode base mods hw) h hq
  case widthX =>
    obtain ⟨v, hr⟩ := runs_storeAt_wX ho hop
    exact memoryKeptBut_of_runs hr (fun base mods => storeAt_memory mode s.wX (v s) base mods hw) h hq
  case blockMoves =>
    rcases hi with rfl | rfl <;> cases h
    · exact blockMove_memory dst src 1 _ _ hw hq
    · exact blockMove_memory dst src (-1) _ _ hw hq

end Sys2Proof.Machine
end

section
/-! SUPPORT. Loads, stores and transfers (42_load_store_transfer.md R180 to R199): each instruction is a shared operation,
with its law of what it writes and of what it keeps. -/

namespace Sys2Proof.Machine

/-- Settles O33: each load is the shared load of its register. -/
theorem loads : Obligations.Loads := by
  refine ⟨fun i s o h ho => ?lda, fun i s o ho => ⟨fun h => ?ldx, fun h => ?ldy⟩⟩
  case lda =>
    exact ⟨_, runs_lda h ho s, accumulatorIs_merge rfl, nzFrom_setNZ s.p rfl, loadA_keeps _ _ s o, rfl, rfl⟩
  case ldx => exact ⟨_, runs_ldx h ho s, indexIs_trunc rfl, nzFrom_setNZ s.p rfl, loadX_keeps _ _ s o, rfl, rfl⟩
  case ldy => exact ⟨_, runs_ldy h ho s, indexIs_trunc rfl, nzFrom_setNZ s.p rfl, loadY_keeps _ _ s o, rfl, rfl⟩

/-- Settles O34: each store is the shared store at its width; only the low byte of a register is written at 8 bits, so it
does not matter that the register is read at that width first. -/
theorem stores : Obligations.Stores := by
  refine fun i s mode ho => ⟨fun h => ?sta, fun h => ?stx, fun h => ?sty, fun h => ?stz⟩
  case sta =>
    exact ⟨_, runs_sta h ho s, Bus.writeAt_trunc _ _ _ s.a, storeAt_keeps _ _ s mode _ _, rfl, rfl⟩
  case stx =>
    exact ⟨_, runs_stx h ho s, Bus.writeAt_trunc _ _ _ s.x, storeAt_keeps _ _ s mode _ _, rfl, rfl⟩
  case sty =>
    exact ⟨_, runs_sty h ho s, Bus.writeAt_trunc _ _ _ s.y, storeAt_keeps _ _ s mode _ _, rfl, rfl⟩
  case stz => exact ⟨_, runs_stz h ho s, rfl, storeAt_keeps _ _ s mode _ _, rfl, rfl⟩

/-- A whole value written to S: page 1 is forced in emulation mode (10_state.md R30). -/
theorem State.toNat_transferToS_sp (s : State) (v : Word) :
    (s.transferToS v).sp.toNat = if s.e then 0x0100 + v.toNat % 256 else v.toNat := by
  rw [transferToS_sp]
  split
  · rw [toNat_mkWord, toNat_loByte]
    rfl
  · rfl

/-- Settles O35: each transfer is the shared transfer into its register. -/
theorem transfers : Obligations.Transfers := by
  refine ⟨fun s => ⟨?tax, ?tay, ?txy, ?tyx, ?tsx, ?txa, ?tya⟩, fun s => ⟨?tcd, ?tdc, ?tsc, ?xba, ?txs, ?tcs⟩⟩
  case tax | tyx | tsx =>
    exact ⟨_, rfl, indexIs_trunc rfl, nzFrom_setNZ s.p rfl, transferToX_keeps _ _ s _, rfl, rfl, rfl⟩
  case tay | txy =>
    exact ⟨_, rfl, indexIs_trunc rfl, nzFrom_setNZ s.p rfl, transferToY_keeps _ _ s _, rfl, rfl, rfl⟩
  case txa | tya =>
    exact ⟨_, rfl, accumulatorIs_merge rfl, nzFrom_setNZ s.p rfl, transferToA_keeps _ _ s _, rfl, rfl, rfl⟩
  case tcd => exact ⟨_, rfl, rfl, nzFrom_setNZ s.p rfl, transferToD_keeps _ _ s s.a, rfl, rfl⟩
  case tdc | tsc => exact ⟨_, rfl, rfl, nzFrom_setNZ s.p rfl, transferToWholeA_keeps _ _ s _, rfl, rfl⟩
  case xba =>
    exact ⟨_, rfl, loByte_mkWord _ _, hiByte_mkWord _ _, nzFrom_setNZ s.p rfl, exchangeA_keeps _ _ s, rfl, rfl⟩
  case txs | tcs => exact ⟨_, rfl, s.toNat_transferToS_sp _, transferToStack_keeps _ _ s _, rfl, rfl⟩

end Sys2Proof.Machine
end

section
/-! SUPPORT. The block moves by what they leave in the registers (42_load_store_transfer.md R200, R201): X and Y moved on
at width wX, the count in A, and PC. -/

namespace Sys2Proof

/-- A sum at a width, as numbers. -/
theorem Width.toNat_trunc_add (w : Width) (v delta : Word) :
    (w.trunc (v + delta)).toNat = (v.toNat + delta.toNat) % 2 ^ w.bits := by
  have hdvd : 2 ^ w.bits ∣ 2 ^ 16 := pow_dvd_pow 2 (by cases w <;> decide)
  rw [toNat_trunc, BitVec.toNat_add, Nat.mod_mod_of_dvd _ hdvd]

namespace Machine

/-- The count passes zero where it was zero. -/
theorem count_passes_zero_iff (a : Word) : a - 1 = 0xFFFF ↔ a = 0 := by
  rw [sub_eq_iff_eq_add]
  rfl

section

variable (dst src : Byte) (delta : Word) (base : Nat) (mods : List Modifier) (s : State)

theorem blockMove_x :
    (blockMove dst src delta base mods s).x.toNat = (s.getX.toNat + delta.toNat) % 2 ^ s.wX.bits :=
  s.wX.toNat_trunc_add s.getX delta

theorem blockMove_y :
    (blockMove dst src delta base mods s).y.toNat = (s.getY.toNat + delta.toNat) % 2 ^ s.wX.bits :=
  s.wX.toNat_trunc_add s.getY delta

/-- A counts down in 16 bits, whatever P.M is. -/
theorem blockMove_a : (blockMove dst src delta base mods s).a.toNat = (s.a.toNat + 0xFFFF) % 0x10000 := by
  show (s.a - 1).toNat = _
  rw [sub_eq_add_neg, BitVec.toNat_add]
  rfl

/-- PC stands behind the three bytes of the instruction: it stays there when the count was zero, and otherwise goes back to
the opcode. -/
theorem blockMove_pc :
    (blockMove dst src delta base mods s).pc.toNat =
      if s.a = 0x0000 then s.pc.toNat else (s.pc.toNat + 0xFFFD) % 0x10000 := by
  show (if s.a - 1 = 0xFFFF then s.pc else s.pc - 3).toNat = _
  simp only [count_passes_zero_iff]
  split
  · rfl
  · rw [sub_eq_add_neg, BitVec.toNat_add]
    rfl

end

/-- Settles O36: both are the shared block move, by one up or by one down. -/
theorem blockMoves : Obligations.BlockMoves := by
  refine fun s dst src => ⟨?mvn, ?mvp⟩
  case mvn | mvp =>
    exact ⟨_, rfl, rfl, rfl, blockMove_a _ _ _ _ _ s, blockMove_x _ _ _ _ _ s, blockMove_y _ _ _ _ _ s,
      blockMove_pc _ _ _ _ _ s, blockMove_keeps _ _ s _ _ _, rfl⟩

end Machine

end Sys2Proof
end

section
/-! SUPPORT. The decoder on the words of the spec's examples (42_load_store_transfer.md R183, R200; 43_alu.md R221, R229;
45_control.md R271, R272; 46_stack.md R307, R308; 47_status_system.md R317, R319). -/

namespace Sys2Proof

/-- The bytes of a well-formed instruction, written out with what follows them, decode to it. -/
theorem decode_of_encode {m x : Bool} {bytes rest : List Byte} {i : Instr} (hw : i.wellFormed m x = true)
    (hb : encode i ++ rest = bytes) : decode m x bytes = .ok (i, rest) :=
  hb ▸ decodeInvertsEncode m x i rest hw

/-- Settles O5: each string is the encoding of a well-formed instruction, the last with a byte behind it. -/
theorem specWordsDecode : Obligations.SpecWordsDecode := by
  unfold Obligations.SpecWordsDecode
  and_intros <;> exact decode_of_encode rfl rfl

end Sys2Proof
end

section
/-! SUPPORT. Arithmetic and logic over A and an operand (43_alu.md R220 to R228, R250 to R252): the laws of the flag
computations that Laws/Alu.lean leaves out, then each instruction as its shared operation. -/

namespace Sys2Proof

namespace Machine

/-! Subtraction with borrow -/

section

variable (w : Width) (p : Byte) (a : Word) {m : Word}

/-- The difference less the borrow at a width, as numbers (43_alu.md R221). -/
theorem subWithBorrow_value (hm : m.toNat < 2 ^ w.bits) :
    (subWithBorrow w p a m).value =
      BitVec.ofNat 16 ((a.toNat + 2 ^ w.bits - m.toNat - (1 - (flag p .c).toNat)) % 2 ^ w.bits) :=
  congrArg (fun sum => BitVec.ofNat 16 (sum % 2 ^ w.bits)) (inverted_sum w p hm)

/-- C of a subtraction: there is no borrow out (43_alu.md R221). -/
theorem subWithBorrow_c (hm : m.toNat < 2 ^ w.bits) :
    flag (subWithBorrow w p a m).p .c = true ↔ m.toNat + (1 - (flag p .c).toNat) ≤ a.toNat := by
  rw [subWithBorrow, addWithCarry_c, inverted_sum w p hm]
  omega

/-- V of a subtraction: the operand has the result's sign and A does not (43_alu.md R221, R250). -/
theorem subWithBorrow_v :
    flag (subWithBorrow w p a m).p .v = true ↔
      w.msb a ≠ w.msb (subWithBorrow w p a m).value ∧ w.msb m = w.msb (subWithBorrow w p a m).value := by
  rw [subWithBorrow, addWithCarry_v, w.msb_xor_mask, ne_eq (!_), Bool.not_not_eq]

end

/-! Bit test -/

theorem bitTest_z (w : Width) (p : Byte) (a m : Word) (immediate : Bool) :
    flag (bitTest w p a m immediate) .z = true ↔ a &&& m = 0 := by
  cases immediate <;> simp [bitTest]

theorem bitTest_n (w : Width) (p : Byte) (a m : Word) : flag (bitTest w p a m false) .n = w.msb m := by
  simp [bitTest]

theorem bitTest_v (w : Width) (p : Byte) (a m : Word) :
    flag (bitTest w p a m false) .v = m.getLsbD (w.bits - 2) := by
  simp [bitTest]

/-- Of the rows of BIT, 0x89 is the one with an immediate (43_alu.md R228). -/
theorem isImm_of_bit {i : Instr} {o : Operand} (h : i.opcode ∈ bitOpcodes) (ho : dataOperand i = some o) :
    o.isImm = decide (i.opcode = 0x89) := by
  obtain ⟨q, hi⟩ := i.of_opcode
  simp only [bitOpcodes, List.mem_cons, List.not_mem_nil, or_false] at h
  rcases h with h | h | h | h | h
  all_goals
    rw [h]
    rw [h] at hi
    subst hi
    obtain rfl : _ = o := Option.some.inj ho
    rfl

/-! The instructions -/

/-- Settles O38: the shared operation on A, with the laws of the subtraction. -/
theorem subtractWithBorrow : Obligations.SubtractWithBorrow := by
  intro i s o h ho r borrow res
  have hm : r.value.toNat < 2 ^ s.wM.bits := o.read_fits s s.wM
  have hres : (subWithBorrow s.wM s.p s.getA r.value).value = res := subWithBorrow_value s.wM s.p s.getA hm
  have hv := subWithBorrow_v s.wM s.p s.getA (m := r.value)
  rw [hres] at hv
  exact ⟨_, runs_sbc h ho s, accumulatorIs_merge (congrArg (s.wM.merge s.a) hres),
    nzFrom_setNZ _ (congrArg (setNZ _ s.wM) hres), subWithBorrow_c s.wM s.p s.getA hm, hv,
    binaryA_keeps _ _ s subWithBorrow_keepsFlags o, rfl, rfl⟩

/-- Settles O39: each is the shared operation on A with its bitwise function. -/
theorem logic : Obligations.Logic := by
  refine fun i s o ho => ⟨fun h => ?and, fun h => ?ora, fun h => ?eor⟩
  case and =>
    exact ⟨_, runs_and h ho s, accumulatorIs_merge rfl, nzFrom_setNZ s.p rfl,
      binaryA_keeps _ _ s bitAnd_keepsFlags o, rfl, rfl⟩
  case ora =>
    exact ⟨_, runs_ora h ho s, accumulatorIs_merge rfl, nzFrom_setNZ s.p rfl,
      binaryA_keeps _ _ s bitOr_keepsFlags o, rfl, rfl⟩
  case eor =>
    exact ⟨_, runs_eor h ho s, accumulatorIs_merge rfl, nzFrom_setNZ s.p rfl,
      binaryA_keeps _ _ s bitXor_keepsFlags o, rfl, rfl⟩

/-- The flags after a compare of two values that have the width (43_alu.md R252). -/
theorem compareWith_flags (base : Nat) (mods : List Modifier) (s : State) (o : Operand) {w : Width} {v : Word}
    (hv : v.toNat < 2 ^ w.bits) :
    (flag (compareWith w v o base mods s).p .c = true ↔ (o.read s w).value.toNat ≤ v.toNat) ∧
      NZFrom w (BitVec.ofNat 16 ((v.toNat + 2 ^ w.bits - (o.read s w).value.toNat) % 2 ^ w.bits))
        (compareWith w v o base mods s) := by
  refine ⟨?c, nzFrom_setNZ _ (congrArg (setNZ _ w) (w.trunc_sub hv (o.read_fits s w)))⟩
  show flag (compareFlags w s.p v _) .c = true ↔ _
  rw [compareFlags_c, decide_eq_true_iff]

/-- Settles O40: each is the shared compare of its register, which has the width it is compared at. -/
theorem compares : Obligations.Compares := by
  refine fun i s o ho => ⟨fun h => ?cmp, fun h => ?cpx, fun h => ?cpy⟩
  case cmp =>
    obtain ⟨hc, hnz⟩ := compareWith_flags _ _ s o s.getA_fits
    exact ⟨_, runs_cmp h ho s, hc, hnz, compareWith_keeps _ _ s _ _ o, rfl, rfl⟩
  case cpx =>
    obtain ⟨hc, hnz⟩ := compareWith_flags _ _ s o s.getX_fits
    exact ⟨_, runs_cpx h ho s, hc, hnz, compareWith_keeps _ _ s _ _ o, rfl, rfl⟩
  case cpy =>
    obtain ⟨hc, hnz⟩ := compareWith_flags _ _ s o s.getY_fits
    exact ⟨_, runs_cpy h ho s, hc, hnz, compareWith_keeps _ _ s _ _ o, rfl, rfl⟩

end Machine

open Machine in
/-- Settles O37: the shared operation on A, with the laws of the addition. -/
theorem addWithCarry : Obligations.AddWithCarry := by
  intro i s o h ho r sum res
  have hc : flag (Machine.addWithCarry s.wM s.p s.getA r.value).p .c = true ↔ 2 ^ s.wM.bits - 1 < sum :=
    (addWithCarry_c s.wM s.p s.getA r.value).trans
      ((tsub_lt_iff_right Nat.one_le_two_pow).trans Nat.lt_add_one_iff).symm
  exact ⟨_, runs_adc h ho s, accumulatorIs_merge rfl, nzFrom_setNZ _ rfl, hc, addWithCarry_v s.wM s.p s.getA r.value,
    binaryA_keeps _ _ s addWithCarry_keepsFlags o, rfl, rfl⟩

open Machine in
/-- Settles O41: the row says whether the operand is an immediate, and with it which flags the test writes. -/
theorem bitTest : Obligations.BitTest := by
  intro i s o h ho r
  have himm := isImm_of_bit h ho
  refine ⟨_, runs_bit h ho s, bitTest_z s.wM s.p s.getA r.value o.isImm, fun h89 => ?immediate, fun h89 => ?memory,
    rfl, rfl⟩
  case immediate =>
    rw [decide_eq_true h89] at himm
    cases o with
    | imm v => exact testA_keeps_imm _ _ s v
    | mem mode => nomatch himm
  case memory =>
    rw [decide_eq_false h89] at himm
    cases o with
    | imm v => nomatch himm
    | mem mode =>
      exact ⟨bitTest_n s.wM s.p s.getA r.value, bitTest_v s.wM s.p s.getA r.value, testA_keeps _ _ s _⟩

end Sys2Proof
end

section
/-! SUPPORT. Increments, shifts, rotates and test-and-set (43_alu.md R229 to R240, R253): their results and the bit shifted
out as numbers, then each instruction as its shared operation on a register or on memory. -/

namespace Sys2Proof.Machine

/-! Results and carry -/

section

variable (w : Width) (p : Byte) {v : Word}

theorem shiftLeft_c (hv : v.toNat < 2 ^ w.bits) :
    flag (shiftLeft w p v).p .c = decide (2 ^ (w.bits - 1) ≤ v.toNat) := by
  rw [shiftLeft, flag_setNZ_c, flag_setFlag_same, w.msb_eq_decide hv]

theorem rotateLeft_c (hv : v.toNat < 2 ^ w.bits) :
    flag (rotateLeft w p v).p .c = decide (2 ^ (w.bits - 1) ≤ v.toNat) := by
  rw [rotateLeft, flag_setNZ_c, flag_setFlag_same, w.msb_eq_decide hv]

variable (v)

theorem shiftRight_c : flag (shiftRight w p v).p .c = decide (v.toNat % 2 = 1) := by
  rw [shiftRight, flag_setNZ_c, flag_setFlag_same, getLsbD_zero_eq]

theorem rotateRight_c : flag (rotateRight w p v).p .c = decide (v.toNat % 2 = 1) := by
  rw [rotateRight, flag_setNZ_c, flag_setFlag_same, getLsbD_zero_eq]

end

/-- Z of TSB (43_alu.md R239). -/
theorem testAndSet_z (w : Width) (a : Word) (p : Byte) (v : Word) :
    flag (testAndSet w a p v).p .z = true ↔ a &&& v = 0 := by
  rw [testAndSet, flag_setFlag_same, beq_iff_eq]

/-- Z of TRB (43_alu.md R240). -/
theorem testAndReset_z (w : Width) (a : Word) (p : Byte) (v : Word) :
    flag (testAndReset w a p v).p .z = true ↔ a &&& v = 0 := by
  rw [testAndReset, flag_setFlag_same, beq_iff_eq]

/-- A computation whose N and Z are those of its result. -/
def UnarySetsNZ (f : UnaryOp) : Prop := ∀ w p v, ∃ q, (f w p v).p = setNZ q w (f w p v).value

theorem increment_setsNZ : UnarySetsNZ increment := fun _ _ _ => ⟨_, rfl⟩
theorem decrement_setsNZ : UnarySetsNZ decrement := fun _ _ _ => ⟨_, rfl⟩
theorem shiftLeft_setsNZ : UnarySetsNZ shiftLeft := fun _ _ _ => ⟨_, rfl⟩
theorem shiftRight_setsNZ : UnarySetsNZ shiftRight := fun _ _ _ => ⟨_, rfl⟩
theorem rotateLeft_setsNZ : UnarySetsNZ rotateLeft := fun _ _ _ => ⟨_, rfl⟩
theorem rotateRight_setsNZ : UnarySetsNZ rotateRight := fun _ _ _ => ⟨_, rfl⟩

/-! The accumulator and the index registers -/

section

variable (base : Nat) (mods : List Modifier) (s : State)

/-- A and N and Z after a computation on the accumulator. -/
theorem modifyA_result {f : UnaryOp} (hf : UnarySetsNZ f) {res : Word} (h : (f s.wM s.p s.getA).value = res) :
    AccumulatorIs res s (modifyA f base mods s) ∧ NZFrom s.wM res (modifyA f base mods s) := by
  obtain ⟨q, hq⟩ := hf s.wM s.p s.getA
  rw [h] at hq
  exact ⟨accumulatorIs_merge (congrArg (s.wM.merge s.a) h), nzFrom_setNZ q hq⟩

/-- The bus and N and Z after a computation on memory. -/
theorem modifyMemory_result {f : UnaryOp} (hf : UnarySetsNZ f) (mode : AddrMode) {res : Word}
    (h : (f s.wM s.p ((mode.resolve s).bus.readAt s.wM (mode.resolve s).ea).1).value = res) :
    (modifyMemory f mode base mods s).bus =
        ((mode.resolve s).bus.readAt s.wM (mode.resolve s).ea).2.writeAt s.wM (mode.resolve s).ea res ∧
      NZFrom s.wM res (modifyMemory f mode base mods s) := by
  obtain ⟨q, hq⟩ := hf s.wM s.p ((mode.resolve s).bus.readAt s.wM (mode.resolve s).ea).1
  rw [h] at hq
  exact ⟨congrArg (Bus.writeAt _ s.wM _) h, nzFrom_setNZ q hq⟩

/-- X and N and Z after X is moved. -/
theorem stepX_result {delta res : Word} (h : s.wX.trunc (s.getX + delta) = res) :
    (stepX delta base mods s).x = res ∧ NZFrom s.wX res (stepX delta base mods s) :=
  ⟨h, h ▸ nzFrom_trunc s.p rfl⟩

/-- Y and N and Z after Y is moved. -/
theorem stepY_result {delta res : Word} (h : s.wX.trunc (s.getY + delta) = res) :
    (stepY delta base mods s).y = res ∧ NZFrom s.wX res (stepY delta base mods s) :=
  ⟨h, h ▸ nzFrom_trunc s.p rfl⟩

end

/-- Settles O42: each is the shared operation on its register, with the law of its computation. -/
theorem registerIncrementsAndShifts : Obligations.RegisterIncrementsAndShifts := by
  refine ⟨fun s => ⟨?incAcc, ?decAcc, ?inx, ?iny, ?dex, ?dey⟩, fun s => ⟨?aslAcc, ?lsrAcc, ?rolAcc, ?rorAcc⟩⟩
  case incAcc =>
    obtain ⟨ha, hnz⟩ := modifyA_result 2 [] s increment_setsNZ (s.wM.trunc_succ s.getA)
    exact ⟨_, rfl, ha, hnz, modifyA_keeps _ _ s increment_keepsFlags, rfl, rfl⟩
  case decAcc =>
    obtain ⟨ha, hnz⟩ := modifyA_result 2 [] s decrement_setsNZ (s.wM.trunc_pred s.getA_fits)
    exact ⟨_, rfl, ha, hnz, modifyA_keeps _ _ s decrement_keepsFlags, rfl, rfl⟩
  case inx =>
    obtain ⟨hx, hnz⟩ := stepX_result 2 [] s (s.wX.trunc_succ s.getX)
    exact ⟨_, rfl, hx, hnz, stepX_keeps _ _ s 1, rfl, rfl⟩
  case iny =>
    obtain ⟨hy, hnz⟩ := stepY_result 2 [] s (s.wX.trunc_succ s.getY)
    exact ⟨_, rfl, hy, hnz, stepY_keeps _ _ s 1, rfl, rfl⟩
  case dex =>
    obtain ⟨hx, hnz⟩ := stepX_result 2 [] s (sub_eq_add_neg s.getX 1 ▸ s.wX.trunc_pred s.getX_fits)
    exact ⟨_, rfl, hx, hnz, stepX_keeps _ _ s (-1), rfl, rfl⟩
  case dey =>
    obtain ⟨hy, hnz⟩ := stepY_result 2 [] s (sub_eq_add_neg s.getY 1 ▸ s.wX.trunc_pred s.getY_fits)
    exact ⟨_, rfl, hy, hnz, stepY_keeps _ _ s (-1), rfl, rfl⟩
  case aslAcc =>
    obtain ⟨ha, hnz⟩ := modifyA_result 2 [] s shiftLeft_setsNZ (shiftLeft_value s.wM s.p s.getA)
    exact ⟨_, rfl, ha, hnz, shiftLeft_c s.wM s.p s.getA_fits, modifyA_keeps _ _ s shiftLeft_keepsFlags, rfl, rfl⟩
  case lsrAcc =>
    obtain ⟨ha, hnz⟩ := modifyA_result 2 [] s shiftRight_setsNZ (shiftRight_value s.wM s.p s.getA)
    exact ⟨_, rfl, ha, hnz, shiftRight_c s.wM s.p s.getA, modifyA_keeps _ _ s shiftRight_keepsFlags, rfl, rfl⟩
  case rolAcc =>
    obtain ⟨ha, hnz⟩ := modifyA_result 2 [] s rotateLeft_setsNZ (rotateLeft_value s.wM s.p s.getA)
    exact ⟨_, rfl, ha, hnz, rotateLeft_c s.wM s.p s.getA_fits, modifyA_keeps _ _ s rotateLeft_keepsFlags, rfl, rfl⟩
  case rorAcc =>
    obtain ⟨ha, hnz⟩ := modifyA_result 2 [] s rotateRight_setsNZ (rotateRight_value s.wM s.p s.getA_fits)
    exact ⟨_, rfl, ha, hnz, rotateRight_c s.wM s.p s.getA, modifyA_keeps _ _ s rotateRight_keepsFlags, rfl, rfl⟩

/-- Settles O43: each is the shared read-modify-write, with the law of its computation on the value read. -/
theorem readModifyWrites : Obligations.ReadModifyWrites := by
  refine ⟨fun i s mode ho => ?arithmetic, fun i s mode ho => ⟨fun h => ?tsb, fun h => ?trb⟩⟩
  case arithmetic =>
    intro r m v top c done
    have hv : m.1.toNat < 2 ^ s.wM.bits := Bus.readAt_fits _ _ _
    have htop : 2 * top = 2 ^ s.wM.bits := s.wM.two_mul_half
    refine ⟨fun h => ?inc, fun h => ?dec, fun h => ?asl, fun h => ?lsr, fun h => ?rol, fun h => ?ror⟩
    case inc =>
      obtain ⟨hb, hnz⟩ := modifyMemory_result _ _ s increment_setsNZ mode (htop ▸ s.wM.trunc_succ m.1)
      exact ⟨_, runs_inc h ho s, hb, hnz, modifyMemory_keeps _ _ s increment_keepsFlags mode, rfl⟩
    case dec =>
      obtain ⟨hb, hnz⟩ := modifyMemory_result _ _ s decrement_setsNZ mode (htop ▸ s.wM.trunc_pred hv)
      exact ⟨_, runs_dec h ho s, hb, hnz, modifyMemory_keeps _ _ s decrement_keepsFlags mode, rfl⟩
    case asl =>
      obtain ⟨hb, hnz⟩ := modifyMemory_result _ _ s shiftLeft_setsNZ mode (shiftLeft_value s.wM s.p m.1)
      exact ⟨_, runs_asl h ho s, ⟨hb, hnz, modifyMemory_keeps _ _ s shiftLeft_keepsFlags mode, rfl⟩,
        shiftLeft_c s.wM s.p hv⟩
    case lsr =>
      obtain ⟨hb, hnz⟩ := modifyMemory_result _ _ s shiftRight_setsNZ mode (shiftRight_value s.wM s.p m.1)
      exact ⟨_, runs_lsr h ho s, ⟨hb, hnz, modifyMemory_keeps _ _ s shiftRight_keepsFlags mode, rfl⟩,
        shiftRight_c s.wM s.p m.1⟩
    case rol =>
      obtain ⟨hb, hnz⟩ := modifyMemory_result _ _ s rotateLeft_setsNZ mode (rotateLeft_value s.wM s.p m.1)
      exact ⟨_, runs_rol h ho s, ⟨hb, hnz, modifyMemory_keeps _ _ s rotateLeft_keepsFlags mode, rfl⟩,
        rotateLeft_c s.wM s.p hv⟩
    case ror =>
      obtain ⟨hb, hnz⟩ := modifyMemory_result _ _ s rotateRight_setsNZ mode (rotateRight_value s.wM s.p hv)
      exact ⟨_, runs_ror h ho s, ⟨hb, hnz, modifyMemory_keeps _ _ s rotateRight_keepsFlags mode, rfl⟩,
        rotateRight_c s.wM s.p m.1⟩
  case tsb =>
    exact ⟨_, runs_tsb h ho s, rfl, testAndSet_z s.wM _ s.p _,
      modifyMemory_keeps _ _ s (testAndSet_keepsFlags _) mode, rfl⟩
  case trb =>
    exact ⟨_, runs_trb h ho s, rfl, testAndReset_z s.wM _ s.p _,
      modifyMemory_keeps _ _ s (testAndReset_keepsFlags _) mode, rfl⟩

end Sys2Proof.Machine
end

section
/-! SUPPORT. Conditional branches, calls and returns, and the software interrupts with the return from them (45_control.md
R260 to R267, R272 to R278, R280): what each does to PC, S and the bus, and its cycles. -/

namespace Sys2Proof.Machine

/-! Conditional branches -/

/-- A taken branch costs one cycle more, and one more again across a page in emulation mode (70_reset_and_hazards.md
R467). -/
theorem charge_br_taken (s : State) (base : Nat) (target : Word) :
    charge s base [.br] { taken := true, otherPage := hiByte target != hiByte s.pc } =
      base + 1 + if s.e = true ∧ target.toNat / 256 ≠ s.pc.toNat / 256 then 1 else 0 := by
  simp only [charge, List.map_cons, List.map_nil, List.sum_cons, List.sum_nil, Nat.add_zero, Modifier.cost, if_true,
    Bool.and_eq_true, hiByte_bne]
  split <;> rfl

/-- Each conditional branch is the shared branch under its flag's condition. -/
theorem exec_conditionalBranch (s : State) {off : Byte} {i : Instr} {f : Flag} {want : Bool}
    (h : (i, f, want) ∈ [(.bpl off, Flag.n, false), (.bmi off, .n, true), (.bvc off, .v, false), (.bvs off, .v, true),
      (.bcc off, .c, false), (.bcs off, .c, true), (.bne off, .z, false), (.beq off, .z, true)]) :
    ∃ cond, exec i s = .next (branchIf cond off 2 [.br] s) ∧ (cond = true ↔ flag s.p f = want) := by
  have unset (b : Bool) : (!b) = true ↔ b = false := iff_of_eq (Bool.not_eq_true' b)
  simp only [List.mem_cons, List.not_mem_nil, or_false, Prod.mk.injEq] at h
  rcases h with ⟨rfl, rfl, rfl⟩ | ⟨rfl, rfl, rfl⟩ | ⟨rfl, rfl, rfl⟩ | ⟨rfl, rfl, rfl⟩ | ⟨rfl, rfl, rfl⟩ |
    ⟨rfl, rfl, rfl⟩ | ⟨rfl, rfl, rfl⟩ | ⟨rfl, rfl, rfl⟩
  · exact ⟨_, rfl, unset _⟩
  · exact ⟨_, rfl, Iff.rfl⟩
  · exact ⟨_, rfl, unset _⟩
  · exact ⟨_, rfl, Iff.rfl⟩
  · exact ⟨_, rfl, unset _⟩
  · exact ⟨_, rfl, Iff.rfl⟩
  · exact ⟨_, rfl, unset _⟩
  · exact ⟨_, rfl, Iff.rfl⟩

/-- Settles O44, by whether the condition of the shared branch is met. -/
theorem conditionalBranches : Obligations.ConditionalBranches := by
  intro s off i f want h
  obtain ⟨cond, hx, hc⟩ := exec_conditionalBranch s h
  refine ⟨_, hx, branchIf_keeps _ _ s cond off, rfl, fun ht => ?taken, fun hn => ?notTaken⟩
  case taken =>
    obtain rfl : cond = true := hc.mpr ht
    refine ⟨toNat_add_sextWord s.pc off, ?_⟩
    rw [Nat.add_assoc]
    exact congrArg (s.cycles + ·) (charge_br_taken s 2 (s.relTarget off))
  case notTaken =>
    obtain rfl : cond = false := Bool.eq_false_iff.mpr fun hcond => hn (hc.mp hcond)
    exact ⟨rfl, rfl⟩

/-! Calls and returns -/

namespace State

variable (s : State)

theorem sp_push16 (v : Word) : (s.push16 v).sp = s.sp - 2 := by
  rw [push16_sp]
  bv_omega

theorem sp_pop16 : s.pop16.2.sp = s.sp + 2 := by
  rw [pop16_sp]
  bv_omega

theorem sp_push8_push16 (b : Byte) (v : Word) : ((s.push8 b).push16 v).sp = s.sp - 3 := by
  rw [sp_push16, push8_sp]
  bv_omega

/-- A word and a byte pulled: RTL (45_control.md R275). -/
theorem sp_pop16_pop8 : s.pop16.2.pop8.2.sp = s.sp + 3 := by
  rw [pop8_sp, sp_pop16]
  bv_omega

/-- P, a word and a byte pulled: RTI (45_control.md R278). -/
theorem sp_pop8_pop16_pop8 : s.pop8.2.pop16.2.pop8.2.sp = s.sp + 4 := by
  rw [sp_pop16_pop8, pop8_sp]
  bv_omega

end State

/-- JSL pushes a bank and an offset (45_control.md R273). -/
theorem callLong_sp (target : Addr) (base : Nat) (mods : List Modifier) (s : State) :
    (callLong target base mods s).sp = s.sp - 3 := by
  rw [callLong, State.addCycles_sp, State.jumpLong_sp, State.sp_push8_push16]

/-- Settles O46: each form is one of the shared calls and returns, with its law of what it keeps and where it leaves S. -/
theorem callsAndReturns : Obligations.CallsAndReturns := by
  refine ⟨fun s addr long => ⟨?jsrAbs, ?jsl, ?jsrIndX⟩, fun s => ⟨?rts, ?rtl⟩⟩
  case jsrAbs => exact ⟨_, rfl, rfl, s.sp_push16 _, rfl, callTo_keeps _ _ s addr, rfl⟩
  case jsl => exact ⟨_, rfl, rfl, rfl, callLong_sp _ _ _ s, rfl, callLong_keeps _ _ s long, rfl⟩
  case jsrIndX =>
    exact ⟨_, rfl, s.sp_push16 _, callThrough_keeps _ _ s addr, rfl,
      fun q hq => State.indexedTarget_eq (s := s.push16 (s.pc - 1)) hq⟩
  case rts => exact ⟨_, rfl, s.sp_pop16, returnNear_keeps _ _ s, rfl, BitVec.toNat_add _ _, rfl⟩
  case rtl => exact ⟨_, rfl, s.sp_pop16_pop8, returnLong_keeps _ _ s, rfl, BitVec.toNat_add _ _, rfl, rfl⟩

/-! Software interrupts and the return from an interrupt -/

/-- One cycle more in native mode (70_reset_and_hazards.md R468). -/
theorem charge_e1 (s : State) (base : Nat) : charge s base [.e1] {} = if s.e then base else base + 1 := by
  simp only [charge, List.map_cons, List.map_nil, List.sum_cons, List.sum_nil, Nat.add_zero, Modifier.cost]
  split <;> rfl

/-- A software interrupt: everything it writes, in every state (45_control.md R276, R277). -/
theorem softInterrupt_eq (base : Nat) (mods : List Modifier) (s : State) {kind : Interrupt} (hk : kind ≠ .nmi) :
    ∃ lo hi, s.bus.peek (mkAddr 0x00 (kind.vector s.e)) = some lo ∧
      s.bus.peek (mkAddr 0x00 (kind.vector s.e + 1)) = some hi ∧
      softInterrupt kind base mods s =
        { s with
          sp := s.sp - 4
          p := setFlag s.p .i true
          pbr := 0x00
          pc := mkWord hi lo
          cycles := s.cycles + charge s base mods {}
          bus := s.pushFrame.bus } := by
  obtain ⟨lo, hi, hlo, hhi, e⟩ := s.enterInterrupt_eq kind
  refine ⟨lo, hi, hlo, hhi, ?_⟩
  rw [softInterrupt, e, if_neg hk]
  rfl

/-- BRK and COP are the shared software interrupt, with the vector of their kind (60_exceptions.md R404). -/
theorem exec_softInterrupt {s : State} {sig : Byte} {i : Instr} {vector : Word}
    (h : (i = .brk sig ∧ vector = (if s.e then 0xFFFE else 0xFFE6)) ∨
      (i = .cop sig ∧ vector = (if s.e then 0xFFF4 else 0xFFE4))) :
    ∃ kind, kind ≠ .nmi ∧ vector = Interrupt.vector s.e kind ∧ exec i s = .next (softInterrupt kind 7 [.e1] s) := by
  rcases h with ⟨rfl, hv⟩ | ⟨rfl, hv⟩
  · exact ⟨.brk, by decide, hv, rfl⟩
  · exact ⟨.cop, by decide, hv, rfl⟩

/-- Settles O48, from everything a software interrupt writes; with the stack in work RAM the pushes invoke no callback. -/
theorem softwareInterruptEntry : Obligations.SoftwareInterruptEntry := by
  intro s sig i vector h
  obtain ⟨kind, hk, rfl, hx⟩ := exec_softInterrupt h
  have hkeeps := softInterrupt_keeps 7 [.e1] s kind
  obtain ⟨lo, hi, hlo, hhi, e⟩ := softInterrupt_eq 7 [.e1] s hk
  rw [e] at hx hkeeps
  refine ⟨_, hx, lo, hi, hlo, hhi, toNat_mkWord hi lo, rfl, rfl, flag_setFlag_same s.p .i true, hkeeps,
    congrArg (s.cycles + ·) (charge_e1 s 7), rfl, fun hw hram => ?memory⟩
  obtain ⟨hframe, hquiet⟩ := State.pushFrame_onStack hw hram
  exact ⟨hframe, fun a ha => State.pushFrame_memory hw hquiet ha⟩

/-- Settles O49: the pulls are by definition those of P, PC and PBR in turn; X and Y are as the write of the pulled P
leaves them. -/
theorem returnFromInterrupt : Obligations.ReturnFromInterrupt := by
  intro s
  obtain ⟨hnarrow, hwide⟩ := s.setP_index s.pop8.1
  exact ⟨_, rfl, rfl, rfl, rfl, rfl, s.sp_pop8_pop16_pop8, returnInterrupt_keeps _ _ s, hnarrow, hwide,
    congrArg (s.cycles + ·) (charge_e1 s 6)⟩

end Sys2Proof.Machine
end

section
/-! SUPPORT. Pushes and pulls (46_stack.md R290 to R309): the stack in bank 0, what is pushed and pulled back, each push and
pull as its shared operation with its cycles, and what the pushing instructions leave of memory. -/

namespace Sys2Proof.Machine

/-! What is pushed comes back -/

/-- Between the I/O window and the upper half nothing is mapped in bank 0 (20_memory.md R57, R58). -/
theorem locate_bank0_open (scheme : Scheme) {o : Word} (hlo : 0x6000 ≤ o.toNat) (hhi : o.toNat < 0x8000) :
    locate scheme (mkAddr 0x00 o) = .openBus := by
  have ha : (mkAddr 0x00 o).toNat = o.toNat := toNat_mkAddr_bank0 o
  obtain ⟨openA, -, -, -, openB, -⟩ := schemeDecode (mkAddr 0x00 o)
  cases scheme
  · rw [locate, openA (by omega) (by omega) (by omega)]
  · rw [locate, openB (by omega) (by omega) (by omega)]

/-- The only RAM in bank 0 is the mirror of work RAM below 0x2000 (20_memory.md R54 to R58). -/
theorem lt_of_locate_isRam {scheme : Scheme} {o : Word} (h : (locate scheme (mkAddr 0x00 o)).isRam = true) :
    o.toNat < 0x2000 := by
  by_contra hlow
  have ha : (mkAddr 0x00 o).toNat = o.toNat := toNat_mkAddr_bank0 o
  by_cases hio : o.toNat < 0x6000
  · rw [locate, mapAddress_io scheme (by omega) (by omega) (by omega)] at h
    cases h
  by_cases hopen : o.toNat < 0x8000
  · rw [locate_bank0_open scheme (Nat.not_lt.mp hio) hopen] at h
    cases h
  · obtain ⟨off, hrom⟩ := Bus.locate_upper scheme (Nat.not_lt.mp hopen)
    rw [hrom] at h
    cases h

/-- The next two stack bytes, where both are RAM. -/
theorem stackInRam_two {scheme : Scheme} {sp : Word} (h0 : (locate scheme (mkAddr 0x00 sp)).isRam = true)
    (h1 : (locate scheme (mkAddr 0x00 (sp - 1))).isRam = true) : StackInRam sp 2 := by
  intro k hk
  obtain rfl | rfl : k = 0 ∨ k = 1 := by omega
  · simpa using lt_of_locate_isRam h0
  · exact lt_of_locate_isRam h1

/-- Bytes pushed from S are pulled back in reverse, the last one first (46_stack.md R290, R292). -/
theorem OnStack.pulledFrom {bytes : List Byte} {sp : Word} {b : Bus} (h : OnStack bytes sp b) :
    PulledFrom bytes.reverse (sp - BitVec.ofNat 16 bytes.length) b := by
  intro k hk
  rw [List.length_reverse] at hk
  have hsp : sp - BitVec.ofNat 16 bytes.length + 1 + BitVec.ofNat 16 k =
      sp - BitVec.ofNat 16 (bytes.length - 1 - k) := by bv_omega
  rw [List.getElem_reverse, hsp]
  exact h _ _

namespace State

variable {s : State} (v : Word)

/-- A word pushed into work RAM: the high byte at S, the low byte below it. -/
theorem push16_onStack (hw : s.bus.wf = true) (h : StackInRam s.sp 2) :
    OnStack [hiByte v, loByte v] s.sp (s.push16 v).bus := by
  have g := s.push8_grows (hiByte v)
  obtain ⟨phi, -, -⟩ := push8_ram (v := hiByte v) hw h (by decide : 0 < 2) (by simp)
  obtain ⟨plo, keep, -⟩ := push8_ram (s := s.push8 (hiByte v)) (v := loByte v) (g.wf hw) h (by decide : 1 < 2) rfl
  rw [g.scheme] at keep
  intro k hk
  match k, hk with
  | 0, _ => exact (keep _ (h.apart s.bus.scheme (by decide) (by decide) (by decide) (by decide))).trans phi
  | 1, _ => exact plo

theorem push8_pop8 (b : Byte) (hw : s.bus.wf = true) (hr : (locate s.bus.scheme (mkAddr 0x00 s.sp)).isRam = true) :
    (s.push8 b).pop8 = (b, { s with bus := (s.push8 b).bus }) := by
  have hsp : s.sp - 1 + 1 = s.sp := BitVec.sub_add_cancel _ _
  have hpeek : (s.push8 b).bus.peek (mkAddr 0x00 ((s.push8 b).sp + 1)) = some b := by
    rw [push8_sp, hsp]
    exact Bus.peek_write_same hw hr rfl
  rw [pop8_of_peek hpeek, push8_sp, hsp]
  rfl

theorem push16_pop16 (hw : s.bus.wf = true) (h : StackInRam s.sp 2) :
    (s.push16 v).pop16 = (v, { s with bus := (s.push16 v).bus }) := by
  have hpulled : PulledFrom [loByte v, hiByte v] (s.push16 v).sp (s.push16 v).bus := by
    rw [sp_push16]
    exact (push16_onStack v hw h).pulledFrom
  have hsp : s.sp - 2 + 2 = s.sp := BitVec.sub_add_cancel _ _
  rw [pop16_of_pulled hpulled, mkWord_hiByte_loByte, sp_push16, hsp]
  rfl

end State

/-- Settles O51: order, addresses and S are the definitions read as numbers; what comes back is found where it was pushed. -/
theorem stackPrimitives : Obligations.StackPrimitives := by
  refine ⟨fun s b v => ?push, fun s => ?pull, fun s b v hw => ?roundTrip⟩
  case push =>
    have hsp : (s.sp - 1).toNat = (s.sp.toNat + 0xFFFF) % 0x10000 := by bv_omega
    exact ⟨hsp, rfl, rfl, rfl⟩
  case pull => exact ⟨BitVec.toNat_add _ _, rfl, rfl, toNat_mkWord _ _, rfl⟩
  case roundTrip =>
    exact ⟨State.push8_pop8 b hw, fun h0 h1 => State.push16_pop16 v hw (stackInRam_two h0 h1)⟩

/-! The widths and the cycles -/

section

variable {s : State} (base : Nat)

theorem State.wM_narrow (h : flag s.p .m = true) : s.wM = .w8 := by rw [wM, if_pos h]

theorem State.wM_wide (h : flag s.p .m = false) : s.wM = .w16 := by rw [wM, h]; rfl

theorem State.wX_narrow (h : flag s.p .x = true) : s.wX = .w8 := by rw [wX, if_pos h]

theorem State.wX_wide (h : flag s.p .x = false) : s.wX = .w16 := by rw [wX, h]; rfl

/-- A push or pull of A costs one cycle more at 16 bits (70_reset_and_hazards.md R461). -/
theorem charge_m1_narrow (h : flag s.p .m = true) : charge s base [.m1] {} = base := by
  simp [charge, Modifier.cost, h]

theorem charge_m1_wide (h : flag s.p .m = false) : charge s base [.m1] {} = base + 1 := by
  simp [charge, Modifier.cost, h]

/-- A push or pull of X or Y costs one cycle more at 16 bits (70_reset_and_hazards.md R463). -/
theorem charge_x1_narrow (h : flag s.p .x = true) : charge s base [.x1] {} = base := by
  simp [charge, Modifier.cost, h]

theorem charge_x1_wide (h : flag s.p .x = false) : charge s base [.x1] {} = base + 1 := by
  simp [charge, Modifier.cost, h]

variable (s)

/-- One cycle more where the low byte of D is not 0 (70_reset_and_hazards.md R464). -/
theorem charge_dl : charge s base [.dl] {} = if s.d.toNat % 256 = 0 then base else base + 1 := by
  simp only [charge, List.map_cons, List.map_nil, List.sum_cons, List.sum_nil, Nat.add_zero, Modifier.cost,
    loByte_eq_zero]
  split <;> rfl

end

/-! Pushes -/

section

variable {base : Nat} {mods : List Modifier} {s : State} {n : Nat}

/-- A register pushed at 8 bits: its low byte. -/
theorem pushReg_narrow {w : Width} (v : Word) (hw : w = .w8) (hc : charge s base mods {} = n) :
    (pushReg w v base mods s).sp = s.sp - 1 ∧ (pushReg w v base mods s).bus = (s.push8 (loByte v)).bus ∧
      Keeps [.sp] [] s (pushReg w v base mods s) ∧ (pushReg w v base mods s).cycles = s.cycles + n := by
  subst hw hc
  exact ⟨rfl, rfl, pushReg_keeps _ _ s _ v, rfl⟩

/-- A register pushed at 16 bits. -/
theorem pushReg_wide {w : Width} (v : Word) (hw : w = .w16) (hc : charge s base mods {} = n) :
    (pushReg w v base mods s).sp = s.sp - 2 ∧ (pushReg w v base mods s).bus = (s.push16 v).bus ∧
      Keeps [.sp] [] s (pushReg w v base mods s) ∧ (pushReg w v base mods s).cycles = s.cycles + n := by
  subst hw hc
  exact ⟨s.sp_push16 v, rfl, pushReg_keeps _ _ s _ v, rfl⟩

end

/-- Settles O52: PHA, PHX and PHY are the shared push of a register at the width of their flag, the others the shared push
of a byte, of a word or of a word read in bank 0. -/
theorem pushes : Obligations.Pushes := by
  intro s v rel off byte word
  refine ⟨fun h => ?phaNarrow, fun h => ?phaWide, fun h => ?phxNarrow, fun h => ?phxWide, fun h => ?phyNarrow,
    fun h => ?phyWide, ?php, ?phb, ?phk, ?phd, ?pea, ?per, ?pei⟩
  case phaNarrow => exact ⟨_, rfl, pushReg_narrow s.a (State.wM_narrow h) (charge_m1_narrow 3 h)⟩
  case phaWide => exact ⟨_, rfl, pushReg_wide s.a (State.wM_wide h) (charge_m1_wide 3 h)⟩
  case phxNarrow => exact ⟨_, rfl, pushReg_narrow s.x (State.wX_narrow h) (charge_x1_narrow 3 h)⟩
  case phxWide => exact ⟨_, rfl, pushReg_wide s.x (State.wX_wide h) (charge_x1_wide 3 h)⟩
  case phyNarrow => exact ⟨_, rfl, pushReg_narrow s.y (State.wX_narrow h) (charge_x1_narrow 3 h)⟩
  case phyWide => exact ⟨_, rfl, pushReg_wide s.y (State.wX_wide h) (charge_x1_wide 3 h)⟩
  case php | phb | phk => exact ⟨_, rfl, rfl, rfl, pushByte_keeps _ _ s _, rfl⟩
  case phd | pea => exact ⟨_, rfl, s.sp_push16 _, rfl, pushWord_keeps _ _ s _, rfl⟩
  case per =>
    have htarget : s.relLongTarget rel = BitVec.ofNat 16 ((s.pc.toNat + rel.toNat) % 0x10000) :=
      BitVec.eq_of_toNat_eq (by simp [State.relLongTarget])
    rw [← htarget]
    exact ⟨_, rfl, s.sp_push16 _, rfl, pushWord_keeps _ _ s _, rfl⟩
  case pei =>
    refine ⟨_, rfl, State.sp_push16 _ _, pushPointer_keeps _ _ s off, congrArg (s.cycles + ·) (charge_dl s 6),
      fun p hp => ?_⟩
    obtain rfl : p = s.direct off := BitVec.eq_of_toNat_eq (hp.trans (s.toNat_direct off).symm)
    rfl

/-! Pulls -/

section

variable {base : Nat} {mods : List Modifier} {s : State} {w : Width} {n : Nat}

/-- PLA at a width, with the pull's value, S and bus. -/
theorem pullA_result (hw : s.wM = w) (hc : charge s base mods {} = n) :
    AccumulatorIs (s.popAt w).1 s (pullA base mods s) ∧ NZFrom w (s.popAt w).1 (pullA base mods s) ∧
      Keeps [.a, .sp] [.z, .n] s (pullA base mods s) ∧ (pullA base mods s).sp = (s.popAt w).2.sp ∧
      (pullA base mods s).bus = (s.popAt w).2.bus ∧ (pullA base mods s).cycles = s.cycles + n := by
  have ha : (pullA base mods s).a = s.wM.merge s.a (s.popAt s.wM).1 := by simp [pullA, State.wM]
  have hp : (pullA base mods s).p = setNZ s.p s.wM (s.popAt s.wM).1 := by simp [pullA]
  subst hw hc
  exact ⟨accumulatorIs_merge ha, nzFrom_setNZ s.p hp, pullA_keeps _ _ s, rfl, rfl, by simp [pullA]⟩

theorem pullX_result (hw : s.wX = w) (hc : charge s base mods {} = n) :
    IndexIs (s.popAt w).1 s (pullX base mods s).x ∧ NZFrom w (s.popAt w).1 (pullX base mods s) ∧
      Keeps [.x, .sp] [.z, .n] s (pullX base mods s) ∧ (pullX base mods s).sp = (s.popAt w).2.sp ∧
      (pullX base mods s).bus = (s.popAt w).2.bus ∧ (pullX base mods s).cycles = s.cycles + n := by
  have hx : (pullX base mods s).x = s.wX.trunc (s.popAt s.wX).1 := by simp [pullX, State.wX]
  have hp : (pullX base mods s).p = setNZ s.p s.wX (s.popAt s.wX).1 := by simp [pullX]
  subst hw hc
  exact ⟨indexIs_trunc hx, nzFrom_setNZ s.p hp, pullX_keeps _ _ s, rfl, rfl, by simp [pullX]⟩

theorem pullY_result (hw : s.wX = w) (hc : charge s base mods {} = n) :
    IndexIs (s.popAt w).1 s (pullY base mods s).y ∧ NZFrom w (s.popAt w).1 (pullY base mods s) ∧
      Keeps [.y, .sp] [.z, .n] s (pullY base mods s) ∧ (pullY base mods s).sp = (s.popAt w).2.sp ∧
      (pullY base mods s).bus = (s.popAt w).2.bus ∧ (pullY base mods s).cycles = s.cycles + n := by
  have hy : (pullY base mods s).y = s.wX.trunc (s.popAt s.wX).1 := by simp [pullY, State.wX]
  have hp : (pullY base mods s).p = setNZ s.p s.wX (s.popAt s.wX).1 := by simp [pullY]
  subst hw hc
  exact ⟨indexIs_trunc hy, nzFrom_setNZ s.p hp, pullY_keeps _ _ s, rfl, rfl, by simp [pullY]⟩

end

/-- Settles O53: PLA, PLX and PLY are the shared pull at the width of their flag. -/
theorem pulls : Obligations.Pulls := by
  refine ⟨fun s => ⟨fun h => ?plaNarrow, fun h => ?plaWide, fun h => ?plxNarrow, fun h => ?plxWide, fun h => ?plyNarrow,
    fun h => ?plyWide⟩, fun s => ⟨?plp, ?plb, ?pld⟩⟩
  case plaNarrow => exact ⟨_, rfl, pullA_result (State.wM_narrow h) (charge_m1_narrow 4 h)⟩
  case plaWide => exact ⟨_, rfl, pullA_result (State.wM_wide h) (charge_m1_wide 4 h)⟩
  case plxNarrow => exact ⟨_, rfl, pullX_result (State.wX_narrow h) (charge_x1_narrow 4 h)⟩
  case plxWide => exact ⟨_, rfl, pullX_result (State.wX_wide h) (charge_x1_wide 4 h)⟩
  case plyNarrow => exact ⟨_, rfl, pullY_result (State.wX_narrow h) (charge_x1_narrow 4 h)⟩
  case plyWide => exact ⟨_, rfl, pullY_result (State.wX_wide h) (charge_x1_wide 4 h)⟩
  case plp =>
    obtain ⟨hnarrow, hwide⟩ := s.setP_index s.pop8.1
    exact ⟨_, rfl, rfl, rfl, rfl, pullP_keeps _ _ s, hnarrow, hwide, rfl⟩
  case plb => exact ⟨_, rfl, rfl, nzFrom_setNZ s.p rfl, rfl, rfl, pullB_keeps _ _ s, rfl⟩
  case pld => exact ⟨_, rfl, rfl, nzFrom_setNZ s.p rfl, s.sp_pop16, rfl, pullD_keeps _ _ s, rfl⟩

/-! What the pushing instructions leave of memory -/

section

variable {s : State} {base : Nat} {mods : List Modifier}

theorem pushReg_memory {w : Width} {v : Word} (hw : s.bus.wf = true) (hq : Quiet s (pushReg w v base mods s)) :
    MemoryKeptBut (pushedAt s.sp (w.bits / 8)) s (pushReg w v base mods s) :=
  fun _ ha => State.pushAt_memory hw hq ha

theorem pushByte_memory {v : Byte} (hw : s.bus.wf = true) (hq : Quiet s (pushByte v base mods s)) :
    MemoryKeptBut (pushedAt s.sp 1) s (pushByte v base mods s) :=
  fun _ ha => State.push8_memory hw hq (ha _ List.mem_cons_self)

theorem pushWord_memory {v : Word} (hw : s.bus.wf = true) (hq : Quiet s (pushWord v base mods s)) :
    MemoryKeptBut (pushedAt s.sp 2) s (pushWord v base mods s) :=
  fun _ ha => State.push16_memory hw hq ha

/-- PEI reads its word before it pushes it; a read that invokes no callback leaves the bus (46_stack.md R308). -/
theorem pushPointer_memory {off : Byte} (hw : s.bus.wf = true) (hq : Quiet s (pushPointer off base mods s)) :
    MemoryKeptBut (pushedAt s.sp 2) s (pushPointer off base mods s) := by
  obtain ⟨hread, -⟩ := (s.bus.readBank2_grows 0x00 (s.direct off)).quiet_parts (State.push16_grows (s.withBus _) _) hq
  have hbus : (pushPointer off base mods s).bus = (s.push16 (s.bus.readBank2 0x00 (s.direct off)).1).bus := by
    simp only [pushPointer, Bus.readBank2_quiet hread, State.withBus_self, State.addCycles_bus]
  intro a ha
  rw [Quiet, hbus] at hq
  rw [hbus]
  exact State.push16_memory hw hq ha

theorem callTo_memory {target : Word} (hw : s.bus.wf = true) (hq : Quiet s (callTo target base mods s)) :
    MemoryKeptBut (pushedAt s.sp 2) s (callTo target base mods s) :=
  fun _ ha => State.push16_memory hw hq ha

/-- JSR (abs,X) reads its pointer after the push (45_control.md R272). -/
theorem callThrough_memory {addr : Word} (hw : s.bus.wf = true) (hq : Quiet s (callThrough addr base mods s)) :
    MemoryKeptBut (pushedAt s.sp 2) s (callThrough addr base mods s) := by
  obtain ⟨hpush, hread⟩ := (s.push16_grows (s.pc - 1)).quiet_parts (Bus.readBank2_grows _ s.pbr (addr + s.getX)) hq
  have hbus : (callThrough addr base mods s).bus = (s.push16 (s.pc - 1)).bus := Bus.readBank2_quiet hread
  intro a ha
  rw [hbus]
  exact State.push16_memory hw hpush ha

theorem callLong_memory {target : Addr} (hw : s.bus.wf = true) (hq : Quiet s (callLong target base mods s)) :
    MemoryKeptBut (pushedAt s.sp 3) s (callLong target base mods s) :=
  fun _ ha => State.push8_push16_memory hw hq ha

theorem softInterrupt_memory {kind : Interrupt} (hk : kind ≠ .nmi) (hw : s.bus.wf = true)
    (hq : Quiet s (softInterrupt kind base mods s)) :
    MemoryKeptBut (pushedAt s.sp 4) s (softInterrupt kind base mods s) := by
  obtain ⟨lo, hi, -, -, e⟩ := softInterrupt_eq base mods s hk
  rw [e] at hq ⊢
  exact fun _ ha => State.pushFrame_memory hw hq ha

end

/-- What every instruction of an opcode leaves of memory, the instruction with that opcode leaves. -/
theorem memoryKeptBut_of_opcode {i : Instr} {op : Byte} {s t : State} {stored : List Addr} (hx : exec i s = .next t)
    (hq : Quiet s t) (h : i.opcode = op)
    (hop : ∀ o, ∃ u, exec (opcodeMap op o).2 s = .next u ∧ (Quiet s u → MemoryKeptBut stored s u)) :
    MemoryKeptBut stored s t := by
  obtain ⟨o, hi⟩ := i.of_opcode
  obtain ⟨u, hu, hm⟩ := hop o
  rw [h] at hi
  rw [hi, hu] at hx
  cases hx
  exact hm hq

/-- Settles O59: each instruction is one of the shared pushes, calls or the software interrupt. -/
theorem pushesWriteOnlyTheirBytes : Obligations.PushesWriteOnlyTheirBytes := by
  intro i s t hw hx hq
  simp only [List.mem_cons, List.not_mem_nil, or_false]
  refine ⟨fun h => ?accumulator, fun h => ?index, fun h => ?byte, fun h => ?word, fun h => ?jsl, fun h => ?interrupt⟩
  case accumulator => exact memoryKeptBut_of_opcode hx hq h fun _ => ⟨_, rfl, pushReg_memory hw⟩
  case index =>
    rcases h with h | h <;> exact memoryKeptBut_of_opcode hx hq h fun _ => ⟨_, rfl, pushReg_memory hw⟩
  case byte =>
    rcases h with h | h | h <;> exact memoryKeptBut_of_opcode hx hq h fun _ => ⟨_, rfl, pushByte_memory hw⟩
  case word =>
    rcases h with phd | pea | pei | per | jsr | jsrIndX
    · exact memoryKeptBut_of_opcode hx hq phd fun _ => ⟨_, rfl, pushWord_memory hw⟩
    · exact memoryKeptBut_of_opcode hx hq pea fun _ => ⟨_, rfl, pushWord_memory hw⟩
    · exact memoryKeptBut_of_opcode hx hq pei fun _ => ⟨_, rfl, pushPointer_memory hw⟩
    · exact memoryKeptBut_of_opcode hx hq per fun _ => ⟨_, rfl, pushWord_memory hw⟩
    · exact memoryKeptBut_of_opcode hx hq jsr fun _ => ⟨_, rfl, callTo_memory hw⟩
    · exact memoryKeptBut_of_opcode hx hq jsrIndX fun _ => ⟨_, rfl, callThrough_memory hw⟩
  case jsl => exact memoryKeptBut_of_opcode hx hq h fun _ => ⟨_, rfl, callLong_memory hw⟩
  case interrupt =>
    rcases h with h | h <;>
      exact memoryKeptBut_of_opcode hx hq h fun _ => ⟨_, rfl, softInterrupt_memory (by decide) hw⟩

end Sys2Proof.Machine
end

section
/-! SUPPORT. Status and system instructions (47_status_system.md R310 to R323): the single-flag writes and the writes of the
whole of P, the two outcomes of XCE, and the instructions that touch no register. -/

namespace Sys2Proof.Machine

section

variable {s : State} (base : Nat) (mods : List Modifier)

/-- A single-flag write: the flag, the frame, the bus and the cycles (47_status_system.md R310 to R316). -/
theorem writeFlag_result (f : Flag) (value : Bool) {n : Nat} (hc : charge s base mods {} = n) :
    flag (writeFlag f value base mods s).p f = value ∧ Keeps [] [f] s (writeFlag f value base mods s) ∧
      (writeFlag f value base mods s).bus = s.bus ∧ (writeFlag f value base mods s).cycles = s.cycles + n := by
  subst hc
  exact ⟨flag_setFlag_same s.p f value, writeFlag_keeps base mods s f value, rfl, rfl⟩

/-- XCE puts the old E in C, also where it enters emulation mode, which writes M and X alone (47_status_system.md R319). -/
theorem exchangeCE_c : flag (exchangeCE base mods s).p .c = s.e := by
  unfold exchangeCE
  split <;> simp

theorem exchangeCE_cycles : (exchangeCE base mods s).cycles = s.cycles + charge s base mods {} := by
  unfold exchangeCE
  split <;> rfl

/-- What entering emulation mode forces (47_status_system.md R319, 10_state.md R30). -/
theorem State.enterEmulation_forces (s : State) :
    flag s.enterEmulation.p .m = true ∧ flag s.enterEmulation.p .x = true ∧
      s.enterEmulation.x.toNat = s.x.toNat % 256 ∧ s.enterEmulation.y.toNat = s.y.toNat % 256 ∧
      s.enterEmulation.sp.toNat = 0x0100 + s.sp.toNat % 256 := by
  simp [toNat_zextWord, toNat_loByte, toNat_mkWord]

/-- XCE in native mode with C set enters emulation mode. -/
theorem exchangeCE_enters (he : s.e = false) (hc : flag s.p .c = true) :
    exchangeCE base mods s =
      ({ s.putFlag .c false with e := true } : State).enterEmulation.addCycles (charge s base mods {}) := by
  simp [exchangeCE, he, hc]

end

/-- Settles O54: the seven are the shared write of one flag; REP and SEP are the shared write of P, which sets X and Y by
the P written. -/
theorem statusWrites : Obligations.StatusWrites := by
  refine ⟨fun s i f v h => ?flags, ?status⟩
  case flags =>
    simp only [List.mem_cons, List.not_mem_nil, or_false, Prod.mk.injEq] at h
    rcases h with h | h | h | h | h | h | h <;>
    · obtain ⟨rfl, rfl, rfl⟩ := h
      exact ⟨_, rfl, writeFlag_result 2 [] _ _ rfl⟩
  case status =>
    intro s v done
    have hdone (p : Byte) : done p (writeStatus p 3 [] s) := by
      obtain ⟨hnarrow, hwide⟩ := s.setP_index p
      exact ⟨rfl, writeStatus_keeps 3 [] s p, hnarrow, hwide, rfl, rfl⟩
    exact ⟨⟨_, rfl, hdone _⟩, _, rfl, hdone _⟩

/-- Settles O55, by whether XCE enters emulation mode. -/
theorem exchangeCarryEmulation : Obligations.ExchangeCarryEmulation := by
  intro s
  refine ⟨_, rfl, exec_xce_e rfl, exchangeCE_c 2 [], exchangeCE_bus 2 [] s, exchangeCE_cycles 2 [], fun he hc => ?enters,
    fun h => exchangeCE_keeps_mode 2 [] s ?keeps⟩
  case enters =>
    have hkeeps := exchangeCE_keeps 2 [] s
    rw [exchangeCE_enters 2 [] he hc] at hkeeps ⊢
    obtain ⟨hm, hx, hxl, hyl, hsp⟩ := ({ s.putFlag .c false with e := true } : State).enterEmulation_forces
    exact ⟨hm, hx, hxl, hyl, hsp, hkeeps⟩
  case keeps =>
    rcases h with he | hc
    · simp [he]
    · simp [hc]

/-- Settles O56: the shared operation of each changes what the statement names, and none of the rows has a modifier. -/
theorem systemInstructions : Obligations.SystemInstructions :=
  fun _ _ => ⟨rfl, rfl, rfl, rfl⟩

end Sys2Proof.Machine
end

section
/-! SUPPORT. The service of an NMI or IRQ (60_exceptions.md R404, R405, R416): what it leaves of the registers and the bus,
and the return from it (R408). -/

namespace Sys2Proof.Machine

theorem step_of_service {s : State} {kind : Interrupt} (h : s.stepKind = .service kind) :
    step s = .next (s.serviceInterrupt kind) := by rw [step, h]

namespace State

variable (s : State) (kind : Interrupt)

theorem serviceInterrupt_keeps : Keeps [.sp, .pc, .pbr, .waiting] [.i] s (s.serviceInterrupt kind) := by
  obtain ⟨lo, hi, -, -, e⟩ := s.serviceInterrupt_eq kind
  rw [e]
  exact ⟨fun r hr => by cases r <;> simp [reg] at hr ⊢, fun f hf => flag_setFlag_other _ _ fun h => hf (by simp [h])⟩

/-- After the four pushes a service writes nothing of the bus but an NMI's request. -/
theorem serviceInterrupt_bus : (s.serviceInterrupt kind).bus =
    if kind = .nmi then { s.pushFrame.bus with nmiPending := false } else s.pushFrame.bus := by
  obtain ⟨lo, hi, -, -, e⟩ := s.serviceInterrupt_eq kind
  rw [e]

/-- No byte depends on a request line. -/
theorem serviceInterrupt_peek (a : Addr) : (s.serviceInterrupt kind).bus.peek a = s.pushFrame.bus.peek a := by
  rw [serviceInterrupt_bus]
  split <;> rfl

theorem serviceInterrupt_events : (s.serviceInterrupt kind).bus.events = s.pushFrame.bus.events := by
  rw [serviceInterrupt_bus]
  split <;> rfl

variable {s}

/-- Where the stack is work RAM, the service leaves the frame there, every other byte as it was, and invokes no callback. -/
theorem serviceInterrupt_memory (hw : s.bus.wf = true) (h : StackInRam s.sp 4) :
    OnStack [s.pbr, hiByte s.pc, loByte s.pc, s.p] s.sp (s.serviceInterrupt kind).bus ∧
      MemoryKeptBut (pushedAt s.sp 4) s (s.serviceInterrupt kind) ∧ Quiet s (s.serviceInterrupt kind) := by
  obtain ⟨hframe, hquiet⟩ := pushFrame_onStack hw h
  exact ⟨fun k hk => (serviceInterrupt_peek s kind _).trans (hframe k hk),
    fun a ha => (serviceInterrupt_peek s kind a).trans (pushFrame_memory hw hquiet ha),
    (serviceInterrupt_events s kind).trans hquiet⟩

/-- A word with a zero high byte is its low byte extended. -/
theorem zextWord_loByte {v : Word} (h : hiByte v = 0) : zextWord (loByte v) = v :=
  word_ext (loByte_zextWord _) ((hiByte_zextWord _).trans h.symm)

/-- Under the index-width rule P written back as it is changes nothing (10_state.md R31, R36). -/
theorem setP_self (h : s.indexWidthInv) : s.setP s.p = s := by
  by_cases hx : flag s.p .x = true
  · obtain ⟨hxHigh, hyHigh⟩ := h hx
    simp [setP, hx, zextWord_loByte hxHigh, zextWord_loByte hyHigh]
  · simp [setP, hx]

/-- The return from a service undoes all of it but the end of the wait, the cycles and what it did to the bus
(60_exceptions.md R408). -/
theorem serviceInterrupt_return (h : s.Inv) (hram : StackInRam s.sp 4) :
    (s.serviceInterrupt kind).returnFromInterrupt =
      { s with waiting := false, cycles := s.cycles + 7, bus := (s.serviceInterrupt kind).bus } := by
  obtain ⟨hindex, hw⟩ := h
  obtain ⟨hframe, -, -⟩ := serviceInterrupt_memory kind hw hram
  have hpulled := hframe.pulledFrom
  obtain ⟨lo, hi, -, -, e⟩ := s.serviceInterrupt_eq kind
  have hsp : (s.serviceInterrupt kind).sp = s.sp - 4 := by rw [e]
  have hp : (s.serviceInterrupt kind).setP s.p =
      { s.setP s.p with
        waiting := false
        sp := s.sp - 4
        pbr := 0x00
        pc := mkWord hi lo
        cycles := s.cycles + 7
        bus := (s.serviceInterrupt kind).bus } := by
    rw [e]
    rfl
  have hback : s.sp - 4 + 4 = s.sp := BitVec.sub_add_cancel _ _
  rw [returnFromInterrupt_of_pulled (hsp ▸ hpulled), hp, setP_self hindex, hsp, hback, mkWord_hiByte_loByte]

end State

/-- Settles O47, from everything a service writes; with the stack in work RAM the pushes invoke no callback, and a step
that invokes none leaves the request lines but for an NMI's. -/
theorem interruptEntry : Obligations.InterruptEntry := by
  intro s kind vector hk hv
  obtain rfl : vector = kind.vector s.e := by rcases hv with ⟨rfl, hv⟩ | ⟨rfl, hv⟩ <;> exact hv
  have hstep := step_of_service hk
  have hkeeps := s.serviceInterrupt_keeps kind
  have hbus := s.serviceInterrupt_bus kind
  obtain ⟨lo, hi, hlo, hhi, e⟩ := s.serviceInterrupt_eq kind
  refine ⟨s.serviceInterrupt kind, lo, hi, hstep, hlo, hhi, ?pc, ?pbr, ?sp, ?i, ?waiting, hkeeps,
    s.serviceInterrupt_cycles kind, hbus, fun hw hram => ?memory⟩
  case pc => rw [e]; exact toNat_mkWord hi lo
  case pbr => rw [e]
  case sp => rw [e]
  case i => rw [e]; exact flag_setFlag_same s.p .i true
  case waiting => rw [e]
  case memory =>
    obtain ⟨hframe, hmemory, hquiet⟩ := State.serviceInterrupt_memory kind hw hram
    obtain ⟨-, -, hlines⟩ := stepHostSide
    obtain ⟨hirq, -, -, hnmi⟩ := hlines s _ hstep hquiet
    simp only [hk, StepKind.service.injEq] at hnmi
    exact ⟨hframe, hmemory, hquiet, hirq, hnmi⟩

/-- Settles O50: RTI finds the frame of the service where it pulls, so the return undoes the service. -/
theorem interruptThenReturn : Obligations.InterruptThenReturn := by
  intro s t kind hinv hram hk hstep
  obtain rfl : s.serviceInterrupt kind = t := Host.Outcome.next.inj ((step_of_service hk).symm.trans hstep)
  refine ⟨_, rfl, ?_⟩
  rw [returnInterrupt, State.serviceInterrupt_return kind hinv hram]
  refine ⟨rfl, fun r hr => ?_⟩
  cases r
  case waiting => exact absurd rfl hr
  all_goals rfl

end Sys2Proof.Machine
end

section
/-! SUPPORT. The processor's reset (70_reset_and_hazards.md R450) and what the cycle modifiers add (70_reset_and_hazards.md
R461 to R469). -/

namespace Sys2Proof.Machine

/-- The reset vector is ROM under both schemes, so the read of it invokes no callback and leaves the bus. -/
theorem Bus.readBank2_resetVector (b : Bus) :
    ∃ lo hi, b.peek 0x00FFFC = some lo ∧ b.peek 0x00FFFD = some hi ∧ b.readBank2 0x00 0xFFFC = (mkWord hi lo, b) := by
  have hlow : mkAddr 0x00 0xFFFC = 0x00FFFC := by decide
  have hhigh : mkAddr 0x00 (0xFFFC + 1) = 0x00FFFD := by decide
  obtain ⟨lo, hi, hlo, hhi, hread⟩ := readBank2_vector (o := 0xFFFC) (Grows.refl b) (by decide) (by decide)
  rw [hlow] at hlo
  rw [hhigh] at hhi
  exact ⟨lo, hi, hlo, hhi, hread⟩

/-- Where PC starts, with the vector's word as a number (70_reset_and_hazards.md R450). -/
theorem resetPc_eq_toNat (v fallback : Word) :
    (if v = 0x0000 ∨ v = 0xFFFF then fallback else v) =
      if v.toNat = 0x0000 ∨ v.toNat = 0xFFFF then fallback else BitVec.ofNat 16 v.toNat := by
  have hzero : v = 0x0000 ↔ v.toNat = 0x0000 := BitVec.toNat_eq
  have hones : v = 0xFFFF ↔ v.toNat = 0xFFFF := BitVec.toNat_eq
  simp only [hzero, hones, BitVec.ofNat_toNat, BitVec.setWidth_eq]

/-- Settles O26: the read of the vector is the one part of the reset that is not a constant, and no byte depends on the
requests cleared before it. -/
theorem cpuResetValues : Obligations.CpuResetValues := by
  intro s
  obtain ⟨lo, hi, hlo, hhi, hread⟩ := Bus.readBank2_resetVector { s.bus with nmiPending := false, irqPending := false }
  refine ⟨lo, hi, hlo, hhi, ?_⟩
  simp only [State.cpuReset, hread, resetPc_eq_toNat, toNat_mkWord]

/-- A cost charged where a flag is clear, as a number. -/
theorem cost_of_clear_flag (f : Bool) (n : Nat) : (if f = true then 0 else n) = n * (1 - f.toNat) := by
  cases f
  · exact (Nat.mul_one n).symm
  · rfl

/-- A taken branch costs 1, and 1 more where it leaves the page in emulation mode (70_reset_and_hazards.md R467). -/
theorem cost_br_eq (s : State) (facts : CycleFacts) :
    Modifier.br.cost s facts =
      (if facts.taken = true then 1 else 0) + if facts.taken = true ∧ s.e = true ∧ facts.otherPage = true then 1 else 0 := by
  by_cases htaken : facts.taken = true
  · by_cases hpage : s.e = true ∧ facts.otherPage = true <;> simp [Modifier.cost, htaken, hpage]
  · simp [Modifier.cost, htaken]

/-- Settles O60, modifier by modifier. -/
theorem cycleModifiers : Obligations.CycleModifiers := by
  intro s facts
  refine ⟨?m1, cost_of_clear_flag _ 2, ?x1, ?dl, ?px, cost_br_eq s facts, ?bra, rfl, rfl⟩
  case m1 => exact (cost_of_clear_flag _ 1).trans (Nat.one_mul _)
  case x1 => exact (cost_of_clear_flag _ 1).trans (Nat.one_mul _)
  case dl => simp only [Modifier.cost, loByte_eq_zero]
  case px => simp only [Modifier.cost, Bool.or_eq_true, Bool.not_eq_true']
  case bra => simp only [Modifier.cost, Bool.and_eq_true]

end Sys2Proof.Machine
end
